-- ==== Sys2Proof/Word.lean ====
section
/-! DEFINITION. The words, bytes and register numbers of the machine (00_scope.md R9, R10; 20_memory.md R40). -/

namespace Sys2Proof

/-- A 16-bit unit of memory, a register's content, an instruction or an address (R9, R10). Arithmetic wraps modulo 2^16. -/
abbrev Word := BitVec 16

/-- One byte of the output stream (R159). -/
abbrev Byte := BitVec 8

/-- The number of a general register, R0 to R7 (R20). -/
abbrev RegIdx := Fin 8

/-- A condition-flag set or a BR condition: NEG is bit 2, ZERO bit 1, POS bit 0 (R26). -/
abbrev CondBits := BitVec 3

/-- One word of memory at a word address. The machine has no smaller unit (R40, R49; log 1). -/
abbrev WordCell := Nat × Word

/-- The word memory of one VM: the listed words, addresses strictly rising, no entry equal to what an unlisted
address reads as. `Memory.wf` says the form, `Memory.unlistedWord` what an unlisted address reads as (R40; log 2). -/
structure Memory where
  cells : List WordCell
  deriving DecidableEq, Repr

end Sys2Proof
end

