-- ==== Sys2Proof/Syntax.lean ====
section
/-! DEFINITION. The instructions: one constructor per row of spec/opcode_table.json (30_encoding.md R60 to R69). -/

namespace Sys2Proof

/-- An instruction with its operand fields as the word holds them (R63). Offsets and immediates are the raw fields;
the meanings sign-extend them (R65). The last six constructors are the TRAP service rows of the table, the TRAP words
with vector 0x20 to 0x25 (R150; log 12). -/
inductive Instr where
  /-- BR, R130. -/
  | br (cond : CondBits) (pcOffset9 : BitVec 9)
  /-- ADD register form, R100. -/
  | addReg (dr sr1 sr2 : RegIdx)
  /-- ADD immediate form, R101. -/
  | addImm (dr sr1 : RegIdx) (imm5 : BitVec 5)
  /-- LD, R110. -/
  | ld (dr : RegIdx) (pcOffset9 : BitVec 9)
  /-- ST, R114. -/
  | st (sr : RegIdx) (pcOffset9 : BitVec 9)
  /-- JSR, R132. -/
  | jsr (pcOffset11 : BitVec 11)
  /-- JSRR, R133. -/
  | jsrr (baseR : RegIdx)
  /-- AND register form, R102. -/
  | andReg (dr sr1 sr2 : RegIdx)
  /-- AND immediate form, R103. -/
  | andImm (dr sr1 : RegIdx) (imm5 : BitVec 5)
  /-- LDR, R112. -/
  | ldr (dr baseR : RegIdx) (offset6 : BitVec 6)
  /-- STR, R116. -/
  | str (sr baseR : RegIdx) (offset6 : BitVec 6)
  /-- RTI, R141: unimplemented, stops the VM. -/
  | rti
  /-- NOT, R104. -/
  | not (dr sr : RegIdx)
  /-- LDI, R111. -/
  | ldi (dr : RegIdx) (pcOffset9 : BitVec 9)
  /-- STI, R115. -/
  | sti (sr : RegIdx) (pcOffset9 : BitVec 9)
  /-- JMP, R131 (RET is JMP R7). -/
  | jmp (baseR : RegIdx)
  /-- RES, R142: the reserved opcode 0xD, stops the VM. -/
  | res
  /-- LEA, R113. -/
  | lea (dr : RegIdx) (pcOffset9 : BitVec 9)
  /-- TRAP, R140, with a vector that has no service row of its own. -/
  | trap (trapvect8 : BitVec 8)
  /-- GETC, the TRAP word with vector 0x20 (R151). -/
  | getc
  /-- OUT, the TRAP word with vector 0x21 (R152). -/
  | out
  /-- PUTS, the TRAP word with vector 0x22 (R153). -/
  | puts
  /-- IN, the TRAP word with vector 0x23 (R154). -/
  | in_
  /-- PUTSP, the TRAP word with vector 0x24 (R155). -/
  | putsp
  /-- HALT, the TRAP word with vector 0x25 (R156). -/
  | halt
  deriving DecidableEq, Repr

end Sys2Proof
end

