-- ==== Sys2Proof/Decode.lean ====
section
/-! DEFINITION. The decoder, total on every word, and after it the encoder (30_encoding.md R60 to R69). -/

namespace Sys2Proof

/-- The field of `len` bits of a word whose lowest bit is bit `lo` (R10). -/
def field (w : Word) (lo len : Nat) : BitVec len := w.extractLsb' lo len

/-- The register number in bits [lo+2:lo] (R63). -/
def regField (w : Word) (lo : Nat) : RegIdx := (field w lo 3).toFin

/-- DR, or the SR of a store: bits [11:9] (R63). -/
def fieldDR (w : Word) : RegIdx := regField w 9

/-- SR1, the SR of NOT, or BaseR: bits [8:6] (R63). -/
def fieldSR1 (w : Word) : RegIdx := regField w 6

/-- SR2: bits [2:0] (R63). -/
def fieldSR2 (w : Word) : RegIdx := regField w 0

/-- Opcode 0xF: a service vector selects its own row of the table, any other vector is the plain TRAP row (R140, R69).
Bits [11:8] are ignored (R67). -/
def decodeTrap (w : Word) : Instr :=
  match (field w 0 8).toNat with
  | 0x20 => .getc
  | 0x21 => .out
  | 0x22 => .puts
  | 0x23 => .in_
  | 0x24 => .putsp
  | 0x25 => .halt
  | _ => .trap (field w 0 8)

/-- The decoder (R62 to R64, R69): by bits [15:12], then bit 5 for opcodes 0x1 and 0x5 and bit 11 for opcode 0x4. Every
word is some instruction, so there is nothing to reject (R68, R69); bits a format marks `x` are not read (R67). -/
def decode (w : Word) : Instr :=
  match (field w 12 4).toNat with
  | 0x0 => .br (field w 9 3) (field w 0 9)
  | 0x1 => if w.getLsbD 5 then .addImm (fieldDR w) (fieldSR1 w) (field w 0 5)
           else .addReg (fieldDR w) (fieldSR1 w) (fieldSR2 w)
  | 0x2 => .ld (fieldDR w) (field w 0 9)
  | 0x3 => .st (fieldDR w) (field w 0 9)
  | 0x4 => if w.getLsbD 11 then .jsr (field w 0 11) else .jsrr (fieldSR1 w)
  | 0x5 => if w.getLsbD 5 then .andImm (fieldDR w) (fieldSR1 w) (field w 0 5)
           else .andReg (fieldDR w) (fieldSR1 w) (fieldSR2 w)
  | 0x6 => .ldr (fieldDR w) (fieldSR1 w) (field w 0 6)
  | 0x7 => .str (fieldDR w) (fieldSR1 w) (field w 0 6)
  | 0x8 => .rti
  | 0x9 => .not (fieldDR w) (fieldSR1 w)
  | 0xA => .ldi (fieldDR w) (field w 0 9)
  | 0xB => .sti (fieldDR w) (field w 0 9)
  | 0xC => .jmp (fieldSR1 w)
  | 0xD => .res
  | 0xE => .lea (fieldDR w) (field w 0 9)
  | _ => decodeTrap w

/-- The decoder on an instruction given as `nbits` bits of value `w`, bit 0 least significant: the whole word is those
bits, and every bit above them is 0. An instruction is exactly one word (R60), so a longer pattern is none. -/
def decodeTableWord (nbits w : Nat) : Option Instr :=
  if nbits ≤ 16 ∧ w < 2 ^ nbits then some (decode (BitVec.ofNat 16 w)) else none

/-- The three bits of a register number (R63). -/
def regBits (r : RegIdx) : BitVec 3 := BitVec.ofFin r

/-- The word of an instruction, from the formats of R64, ignored bits at the canonical values given there. DESIGN CHOICE:
for RES the row gives no canonical value, and the encoder puts zeros, 0xD000 (log 27). -/
def encode : Instr → Word
  | .br cond off => 0b0000#4 ++ cond ++ off
  | .addReg dr sr1 sr2 => 0b0001#4 ++ regBits dr ++ regBits sr1 ++ 0b000#3 ++ regBits sr2
  | .addImm dr sr1 imm => 0b0001#4 ++ regBits dr ++ regBits sr1 ++ 0b1#1 ++ imm
  | .ld dr off => 0b0010#4 ++ regBits dr ++ off
  | .st sr off => 0b0011#4 ++ regBits sr ++ off
  | .jsr off => 0b0100#4 ++ 0b1#1 ++ off
  | .jsrr base => 0b0100#4 ++ 0b000#3 ++ regBits base ++ 0b000000#6
  | .andReg dr sr1 sr2 => 0b0101#4 ++ regBits dr ++ regBits sr1 ++ 0b000#3 ++ regBits sr2
  | .andImm dr sr1 imm => 0b0101#4 ++ regBits dr ++ regBits sr1 ++ 0b1#1 ++ imm
  | .ldr dr base off => 0b0110#4 ++ regBits dr ++ regBits base ++ off
  | .str sr base off => 0b0111#4 ++ regBits sr ++ regBits base ++ off
  | .rti => 0b1000#4 ++ 0b000000000000#12
  | .not dr sr => 0b1001#4 ++ regBits dr ++ regBits sr ++ 0b111111#6
  | .ldi dr off => 0b1010#4 ++ regBits dr ++ off
  | .sti sr off => 0b1011#4 ++ regBits sr ++ off
  | .jmp base => 0b1100#4 ++ 0b000#3 ++ regBits base ++ 0b000000#6
  | .res => 0b1101#4 ++ 0b000000000000#12
  | .lea dr off => 0b1110#4 ++ regBits dr ++ off
  | .trap v => 0b1111#4 ++ 0b0000#4 ++ v
  | .getc => 0b1111#4 ++ 0b0000#4 ++ 0x20#8
  | .out => 0b1111#4 ++ 0b0000#4 ++ 0x21#8
  | .puts => 0b1111#4 ++ 0b0000#4 ++ 0x22#8
  | .in_ => 0b1111#4 ++ 0b0000#4 ++ 0x23#8
  | .putsp => 0b1111#4 ++ 0b0000#4 ++ 0x24#8
  | .halt => 0b1111#4 ++ 0b0000#4 ++ 0x25#8

/-- The `mask` column of the instruction's row in opcode_table.json: the bits the decoder reads as fixed. -/
def rowMask : Instr → Word
  | .br _ _ => 0xF000#16
  | .addReg _ _ _ => 0xF020#16
  | .addImm _ _ _ => 0xF020#16
  | .ld _ _ => 0xF000#16
  | .st _ _ => 0xF000#16
  | .jsr _ => 0xF800#16
  | .jsrr _ => 0xF800#16
  | .andReg _ _ _ => 0xF020#16
  | .andImm _ _ _ => 0xF020#16
  | .ldr _ _ _ => 0xF000#16
  | .str _ _ _ => 0xF000#16
  | .rti => 0xF000#16
  | .not _ _ => 0xF000#16
  | .ldi _ _ => 0xF000#16
  | .sti _ _ => 0xF000#16
  | .jmp _ => 0xF000#16
  | .res => 0xF000#16
  | .lea _ _ => 0xF000#16
  | .trap _ => 0xF000#16
  | .getc => 0xF0FF#16
  | .out => 0xF0FF#16
  | .puts => 0xF0FF#16
  | .in_ => 0xF0FF#16
  | .putsp => 0xF0FF#16
  | .halt => 0xF0FF#16

/-- The `match` column of the instruction's row in opcode_table.json. -/
def rowMatch : Instr → Word
  | .br _ _ => 0x0000#16
  | .addReg _ _ _ => 0x1000#16
  | .addImm _ _ _ => 0x1020#16
  | .ld _ _ => 0x2000#16
  | .st _ _ => 0x3000#16
  | .jsr _ => 0x4800#16
  | .jsrr _ => 0x4000#16
  | .andReg _ _ _ => 0x5000#16
  | .andImm _ _ _ => 0x5020#16
  | .ldr _ _ _ => 0x6000#16
  | .str _ _ _ => 0x7000#16
  | .rti => 0x8000#16
  | .not _ _ => 0x9000#16
  | .ldi _ _ => 0xA000#16
  | .sti _ _ => 0xB000#16
  | .jmp _ => 0xC000#16
  | .res => 0xD000#16
  | .lea _ _ => 0xE000#16
  | .trap _ => 0xF000#16
  | .getc => 0xF020#16
  | .out => 0xF021#16
  | .puts => 0xF022#16
  | .in_ => 0xF023#16
  | .putsp => 0xF024#16
  | .halt => 0xF025#16

/-- The bits the decoder ignores in the instruction's row (R64, R67). -/
def ignoredBits : Instr → Word
  | .addReg _ _ _ => 0x0018#16
  | .andReg _ _ _ => 0x0018#16
  | .not _ _ => 0x003F#16
  | .jmp _ => 0x0E3F#16
  | .jsrr _ => 0x063F#16
  | .rti => 0x0FFF#16
  | .res => 0x0FFF#16
  | .trap _ => 0x0F00#16
  | .getc => 0x0F00#16
  | .out => 0x0F00#16
  | .puts => 0x0F00#16
  | .in_ => 0x0F00#16
  | .putsp => 0x0F00#16
  | .halt => 0x0F00#16
  | .br _ _ => 0#16
  | .addImm _ _ _ => 0#16
  | .ld _ _ => 0#16
  | .st _ _ => 0#16
  | .jsr _ => 0#16
  | .andImm _ _ _ => 0#16
  | .ldr _ _ _ => 0#16
  | .str _ _ _ => 0#16
  | .ldi _ _ => 0#16
  | .sti _ _ => 0#16
  | .lea _ _ => 0#16

end Sys2Proof
end

