-- ==== Sys2Proof/Config.lean ====
section
/-! DEFINITION. What an implementation fixes (00_scope.md R9) and the values the spec leaves open. -/

namespace Sys2Proof

/-- The implementation parameters of R9, fixed for the machine. State holds them as plain data (log 3), so every
claim over all states is a claim over every choice of them; no step changes them. -/
structure Config where
  /-- `JSR_SETS_FLAGS` (R9, R132, R133; D6). -/
  jsrSetsFlags : Bool
  /-- `TRAP_WRITES_R7` (R9, R140; D8). -/
  trapWritesR7 : Bool
  /-- `TRAP_SETS_FLAGS` (R9, R150; D9). -/
  trapSetsFlags : Bool
  /-- `TICK_QUOTA`, the instructions of one Tick (R9, R177; D36). -/
  tickQuota : Nat
  /-- `IN_PROMPT`, OPEN (R9, R154; D18). -/
  inPrompt : List Byte
  /-- `HALT_NOTICE`, OPEN (R9, R156; D19). -/
  haltNotice : List Byte
  /-- `ESCAPE_KEY`, the key that cycles the console owner (R9, R184; D32). -/
  escapeKey : Word
  /-- `init_mem`, the memory of a VM at construction, OPEN (R9, R210; D25). -/
  initMem : Memory
  deriving DecidableEq, Repr

/-- Free value: the bytes of `IN_PROMPT`, to which the spec gives no value (D18; log 4). -/
opaque Config.inPromptBytes : List Byte

/-- Free value: the bytes of `HALT_NOTICE`, to which the spec gives no value (D19; log 4). -/
opaque Config.haltNoticeBytes : List Byte

/-- Free value: R0 after the GETC or IN service with no key pending, "any 16-bit value" (R151, R154; D17; log 5).
The argument numbers the draw. -/
opaque Config.freeKey : Nat → Word

/-- Free value: register `i` of a VM at construction, which "holds no value" (R210; D26; log 6). -/
opaque Config.unsetRegister : Nat → RegIdx → Word

/-- Free value: the flags of a VM at construction, which hold "no value" (R210; D26; log 6). -/
opaque Config.unsetFlags : Nat → CondBits

/-- The parameters at the values R9 gives them; the OPEN ones are free values, and `init_mem` lists nothing (log 2). -/
def Config.default : Config where
  jsrSetsFlags := false
  trapWritesR7 := false
  trapSetsFlags := false
  tickQuota := 1000
  inPrompt := Config.inPromptBytes
  haltNotice := Config.haltNoticeBytes
  escapeKey := 0x001B#16
  initMem := ⟨[]⟩

end Sys2Proof
end

