-- ==== Sys2Proof/Machine/State.lean ====
section
/-! DEFINITION. Everything the spec gives the machine, as plain data, and the state after reset (10_state.md). -/

namespace Sys2Proof.Machine

/-- The execution state of one VM (R31). `stopped` carries no cause. -/
inductive RunState where
  | running
  | stopped
  | trapped (trapNumber : BitVec 8)
  deriving DecidableEq, Repr

/-- One VM instance (R37, R39): all of its architectural state, and the mark `initialised`, which is the model's own. -/
structure Vm where
  /-- R0 to R7 (R20). -/
  regs : Vector Word 8
  /-- The program counter, a word address (R23). -/
  pc : Word
  /-- The condition flags (R26). -/
  flags : CondBits
  /-- The execution state (R31). -/
  run : RunState
  /-- The pending-key cell (R33). -/
  pending : Option Word
  /-- `blocked.INPUT` (R34). -/
  blockedInput : Bool
  /-- `blocked.OUTPUT` (R34). -/
  blockedOutput : Bool
  /-- The word memory, with the keyboard registers at 0xFE00 and 0xFE02 (R40, R43). -/
  mem : Memory
  /-- The model's own: a Reset has given the registers and flags a value (R210; log 6). -/
  initialised : Bool
  deriving DecidableEq, Repr

/-- One entry of the VM collection (R36). -/
structure Slot where
  vm : Vm
  /-- This VM has been counted as stopped (R36, R187). -/
  counted : Bool
  /-- The model's own: this VM was added by `AddVm` (R182; log 16). -/
  joined : Bool
  deriving DecidableEq, Repr

/-- One event on the shared output stream (R158, R159): `flush` is recorded as an event only (log 18). -/
inductive OutEvent where
  | byte (b : Byte)
  | flush
  deriving DecidableEq, Repr

/-- One loaded image: an origin and the words the supplier gives, byte order already converted (R50, R53). -/
structure Image where
  origin : Word
  words : List Word
  deriving DecidableEq, Repr

/-- What the host may inspect (R38), and the registers and flags that R210 says inspection gives no value to before
the first Reset. -/
inductive Query where
  | isRunning
  | isStopped
  | isTrapped
  | trapNumber
  | register (r : RegIdx)
  | conditionFlags
  deriving DecidableEq, Repr

/-- A host call (R193). `vm` is the index of the VM it is made on. -/
inductive HostCall where
  /-- A VM is constructed by itself (R210; log 16). -/
  | construct
  /-- `AddVm(image_loader)`, with the images its loader loads (R182). -/
  | addVm (images : List Image)
  /-- `Reset()` (R211). -/
  | reset (vm : Nat)
  /-- `Load(origin, count, supplier)` (R53; after the first round log 26). -/
  | load (vm : Nat) (image : Image)
  /-- `SetKey(word)` (R192). -/
  | setKey (vm : Nat) (key : Word)
  /-- `RunFor(ticks)`, the count absent or an integer (R73). -/
  | runFor (vm : Nat) (ticks : Option Int)
  /-- `Trap(trap_number)` (R150). -/
  | trap (vm : Nat) (trapNumber : Word)
  /-- `Tick()` (R177; as a call of the host log 17). -/
  | tick (vm : Nat)
  /-- The state inspections (R38). -/
  | inspect (vm : Nat) (query : Query)
  /-- `CycleOwner()` (R184; before the first round log 24, with no owner log 25). -/
  | cycleOwner
  /-- One `Round()` (R183; log 17). -/
  | round
  /-- `RunScheduler()` (R183). -/
  | runScheduler
  /-- The host's boot loop: unbounded RunFor calls, with a Trap call for each Trapped state (R214 step 3; log 7). -/
  | drive (vm : Nat)
  deriving DecidableEq, Repr

/-- What a host call returns (R193). -/
inductive Reply where
  | state (run : RunState)
  | stillRunning (alive : Bool)
  | truth (holds : Bool)
  | trapNumber (n : BitVec 8)
  | register (w : Word)
  | conditionFlags (f : CondBits)
  deriving DecidableEq, Repr

/-- Who made the Tick call in progress: the host, or a round of the scheduler, inside `RunScheduler` or alone. -/
inductive Caller where
  | host
  | round (inScheduler : Bool)
  deriving DecidableEq, Repr

/-- Where a Tick in progress stands (R177): before step 2, or inside the RunFor of step 3 with this budget left. -/
inductive TickPhase where
  | service
  | run (budget : Nat)
  deriving DecidableEq, Repr

/-- The operation in progress, which says what the next step does (log 8). -/
inductive Activity where
  /-- No operation: the host's next call. -/
  | idle
  /-- The host's boot loop on VM `cur` (R214 step 3). -/
  | drive
  /-- A host's RunFor on VM `cur`; `none` is the INFINITE budget (R73). -/
  | runFor (budget : Option Nat)
  /-- A Tick of VM `cur` (R177). -/
  | tick (phase : TickPhase) (caller : Caller)
  /-- `RunScheduler` before its next termination test (R183, R188). -/
  | schedule
  deriving DecidableEq, Repr

/-- The block: the VM collection and the scheduler (R36), the parameters (R9), the shared streams (R191), the host
(R193) and the operation in progress. Plain data. -/
structure State where
  /-- The implementation parameters, fixed for the machine (R9; log 3). -/
  cfg : Config
  /-- The ordered collection of VMs (R36). -/
  vms : List Slot
  /-- The console owner, or no owner (R36). -/
  owner : Option Nat
  /-- The running-count (R36, R187). -/
  running : Nat
  /-- The model's own: a round has been run, so the collection is fixed (R182; log 15). -/
  started : Bool
  /-- The model's own: the VM the operation in progress works on (log 8). -/
  cur : Nat
  /-- The model's own: the operation in progress (log 8). -/
  activity : Activity
  /-- The host's calls still to come, the next first (R193; log 9). -/
  script : List HostCall
  /-- The results of the host's key polls still to come, the next first (R190; log 9). -/
  keys : List (Option Word)
  /-- The shared output stream, oldest first (R159). -/
  output : List OutEvent
  /-- What the host's calls returned, oldest first (R193; log 9). -/
  replies : List Reply
  /-- The model's own: how many free values have been drawn (D17, D26; log 5). -/
  draws : Nat
  deriving DecidableEq, Repr

/-- The machine stops. Raised by the trap services alone, never by an instruction. -/
inductive Fault where
  /-- PUTS or PUTSP walks a memory that holds no zero word, and "the service never completes" (R153, R155; log 13).
  Raised by the Trap operation, called by the host, a Tick or the boot loop. Safe: the hardware makes no further step
  either, and emits nothing the model leaves out ("a hang, not an output"). -/
  | serviceNeverCompletes
  deriving DecidableEq, Repr

/-- The step is outside the model, or outside the contract the spec gives the host. -/
inductive Refusal where
  /-- An instruction with no meaning yet, by its mnemonic. No arm of exec answers it. -/
  | notModelled (mnemonic : String)
  /-- A host call, or an operation in progress, on a VM index that does not exist. Raised by the host calls and the
  steps. Safe: the spec gives no such call (R193). -/
  | noSuchVm
  /-- `Load` with origin + count above 65536 (R53; D28: "a model must refuse it"). Raised by Load and AddVm. Safe. -/
  | loadOutOfRange
  /-- The trap-number accessor while the VM is not Trapped (R38; D23: no value). Raised by inspect. Safe. -/
  | noTrapNumber
  /-- Inspection of a register or of the flags before the first Reset (R210; I12: no value). Raised by inspect. Safe. -/
  | registersHaveNoValue
  /-- `AddVm`, or a bare construction, after the first round (R182; D29). Raised by the host calls. Safe. -/
  | addVmAfterFirstRound
  /-- A round over a collection that holds a VM not added by AddVm (R182; log 16). Raised by the host calls. Safe. -/
  | schedulerHoldsBareVm
  deriving DecidableEq, Repr

/-- The one VM of the machine after reset: constructed (R210), then Reset (R211, R212). Memory lists nothing (log 2). -/
def State.resetVm : Vm where
  regs := Vector.replicate 8 0x0000#16
  pc := 0x3000#16
  flags := 0b000#3
  run := .running
  pending := none
  blockedInput := false
  blockedOutput := false
  mem := ⟨[]⟩
  initialised := true

/-- The machine right after reset: one VM, added and Reset, owner of the console (R36), with the host's boot loop of
R214 in progress on it (log 7). -/
def State.reset : State where
  cfg := Config.default
  vms := [{ vm := State.resetVm, counted := false, joined := true }]
  owner := some 0
  running := 1
  started := false
  cur := 0
  activity := .drive
  script := []
  keys := []
  output := []
  replies := []
  draws := 1

end Sys2Proof.Machine
end

