-- ==== Sys2Proof/Machine/Ops.lean ====
section
/-! DEFINITION. The named operations over memory, registers, the execution state and the block, that the meanings call. -/

namespace Sys2Proof

/-- What an unlisted address reads as, the one definition of it (log 2). -/
def Memory.unlistedWord : Word := 0x0000#16

/-- The word listed at address `a`, or what an unlisted address reads as. -/
def cellsRead : List WordCell → Nat → Word
  | [], _ => Memory.unlistedWord
  | (k, w) :: rest, a => if k = a then w else cellsRead rest a

/-- `cells` with address `a` reading as `w`, in the canonical form. -/
def cellsWrite : List WordCell → Nat → Word → List WordCell
  | [], a, w => if w = Memory.unlistedWord then [] else [(a, w)]
  | (k, v) :: rest, a, w =>
    if a < k then (if w = Memory.unlistedWord then (k, v) :: rest else (a, w) :: (k, v) :: rest)
    else if a = k then (if w = Memory.unlistedWord then rest else (a, w) :: rest)
    else (k, v) :: cellsWrite rest a w

/-- Addresses from `low` on, strictly rising, below 65536, and no word that an unlisted address reads as. -/
def cellsWf : Nat → List WordCell → Bool
  | _, [] => true
  | low, (k, w) :: rest => decide (low ≤ k) && decide (k < 65536) && decide (w ≠ Memory.unlistedWord) && cellsWf (k + 1) rest

/-- The canonical form of a memory: equal contents are equal data (R40: 65536 words). -/
def Memory.wf (m : Memory) : Bool := cellsWf 0 m.cells

/-- `M[a]` (R40). Every 16-bit address is valid (R41). -/
def Memory.read (m : Memory) (a : Word) : Word := cellsRead m.cells a.toNat

/-- `M[a] <- w` (R40). -/
def Memory.write (m : Memory) (a w : Word) : Memory := ⟨cellsWrite m.cells a.toNat w⟩

/-- The words of an image from address `a` on, in increasing order (R53). -/
def Memory.writeWords (m : Memory) (a : Word) : List Word → Memory
  | [] => m
  | w :: rest => (m.write a w).writeWords (a + 1#16) rest

namespace Machine

/-- The keyboard status address (R9, R43). -/
def kbsr : Word := 0xFE00#16

/-- The keyboard data address (R9, R43). -/
def kbdr : Word := 0xFE02#16

/-- The reset entry point `START_PC` (R9, R211). -/
def startPc : Word := 0x3000#16

/-! ### Registers -/

/-- `x[r]` (R20). -/
def Vm.reg (v : Vm) (r : RegIdx) : Word := v.regs[r]

/-- `x[r] <- w` (R20). -/
def Vm.setReg (v : Vm) (r : RegIdx) (w : Word) : Vm := { v with regs := v.regs.set r w }

/-! ### Memory primitives (R44 to R48) -/

/-- The side effect of a read at the keyboard-status address: latch and consume the pending key, or clear the status
register (R44). -/
def Vm.latchKey (v : Vm) : Vm :=
  match v.pending with
  | some k => { v with mem := (v.mem.write kbsr 0x8000#16).write kbdr k, pending := none }
  | none => { v with mem := v.mem.write kbsr 0x0000#16 }

/-- The VM after `MemRead(a, 1)` (R44, R45). -/
def Vm.afterRead (v : Vm) (a : Word) : Vm := if a = kbsr then v.latchKey else v

/-- The word `MemRead(a, 1)` returns: that at `a` after the read's side effect (R44, R45). -/
def Vm.memRead (v : Vm) (a : Word) : Word := (v.afterRead a).mem.read a

/-- `MemWrite(a, 1, w)`, a plain store at every address (R46). -/
def Vm.memWrite (v : Vm) (a w : Word) : Vm := { v with mem := v.mem.write a w }

/-- `RawRead(a)`, with no side effect (R47). -/
def Vm.rawRead (v : Vm) (a : Word) : Word := v.mem.read a

/-! ### Fetch (R73) -/

/-- The word the next fetch gets: `MemRead(pc, 1)` (R48, R73). -/
def Vm.fetchedWord (v : Vm) : Word := v.memRead v.pc

/-- The VM after a fetch: the read's side effect, and pc one word on, modulo 2^16 (R24, R73). -/
def Vm.afterFetch (v : Vm) : Vm := { v.afterRead v.pc with pc := v.pc + 1#16 }

/-! ### Trap entry and the changes of the execution state (R172, R173) -/

/-- Trap entry (R172): the vector goes into the Trapped payload and pc stays at the word after the TRAP. Nothing else
changes, but that `TRAP_WRITES_R7` = true adds the write of R7 (R140, I19). -/
def Vm.enterTrap (v : Vm) (cfg : Config) (vector : BitVec 8) : Vm :=
  let v' := if cfg.trapWritesR7 then v.setReg 7 v.pc else v
  { v' with run := .trapped vector }

/-- Trap return (R173): the dispatcher's default outcome; execution resumes at pc. -/
def Vm.resume (v : Vm) : Vm := { v with run := .running }

/-- The VM becomes Stopped (R141, R142, R156). -/
def Vm.stop (v : Vm) : Vm := { v with run := .stopped }

/-! ### Construction, reset, loading and the key (R210, R211, R53, R192) -/

/-- A VM after construction (R210): Stopped, pc 0x3000, no key, not blocked, memory `init_mem`; its registers and flags
hold no value, which is the free value numbered `draw` (log 6). -/
def Vm.construct (cfg : Config) (draw : Nat) : Vm where
  regs := Vector.ofFn (Config.unsetRegister draw)
  pc := startPc
  flags := Config.unsetFlags draw
  run := .stopped
  pending := none
  blockedInput := false
  blockedOutput := false
  mem := cfg.initMem
  initialised := false

/-- Reset (R211): pc 0x3000, registers and flags zero, Running, from any state; nothing else changes (R212). -/
def Vm.reset (v : Vm) : Vm :=
  { v with
    pc := startPc
    regs := Vector.replicate 8 0x0000#16
    flags := 0b000#3
    run := .running
    initialised := true }

/-- Does an image fit: origin + count at most 65536 (R53)? -/
def Image.fits (img : Image) : Bool := decide (img.origin.toNat + img.words.length ≤ 65536)

/-- `Load(origin, count, supplier)` (R53): the words go to memory and nothing else changes; a range past 0xFFFF is
outside the contract and there is no result (D28). -/
def Vm.load (v : Vm) (img : Image) : Option Vm :=
  if img.fits then some { v with mem := v.mem.writeWords img.origin img.words } else none

/-- The Load calls of one loader, in order (R182). -/
def Vm.loadAll (v : Vm) : List Image → Option Vm
  | [] => some v
  | img :: rest => match v.load img with
    | some v' => v'.loadAll rest
    | none => none

/-- `SetKey(w)`: overwrites any pending key and changes nothing else (R33, R192). -/
def Vm.setKey (v : Vm) (key : Word) : Vm := { v with pending := some key }

/-! ### The block -/

/-- The VM at an index of the collection. -/
def State.vmAt (s : State) (i : Nat) : Option Vm := s.vms[i]?.map Slot.vm

/-- The VM the operation in progress works on. -/
def State.vm? (s : State) : Option Vm := s.vmAt s.cur

/-- Change the VM at an index. No other VM is touched (R39); with no VM there, nothing changes (log 21). -/
def State.onVmAt (s : State) (i : Nat) (f : Vm → Vm) : State :=
  { s with vms := s.vms.modify i (fun slot => { slot with vm := f slot.vm }) }

/-- Change the VM the operation in progress works on: what every instruction does. -/
def State.onVm (s : State) (f : Vm → Vm) : State := s.onVmAt s.cur f

/-- Append events to the shared output stream (R159). -/
def State.emit (s : State) (events : List OutEvent) : State := { s with output := s.output ++ events }

/-- Give the host a result. -/
def State.reply (s : State) (r : Reply) : State := { s with replies := s.replies ++ [r] }

/-- Count the free values drawn (log 5). -/
def State.drawn (s : State) (n : Nat) : State := { s with draws := s.draws + n }

/-- The bytes of the output stream, in order (R159). -/
def outputBytes : List OutEvent → List Byte
  | [] => []
  | .byte b :: rest => b :: outputBytes rest
  | .flush :: rest => outputBytes rest

/-- Go on after a next state; a fault or a refusal stays. -/
def andThen (o : Host.Outcome State Fault Refusal) (f : State → State) : Host.Outcome State Fault Refusal :=
  match o with
  | .next s => .next (f s)
  | .fault r => .fault r
  | .refused r => .refused r

end Machine

end Sys2Proof
end

