-- ==== Sys2Proof/Machine/Flags.lean ====
section
/-! DEFINITION. The condition flags: the flag update and the match of BR (10_state.md R26 to R30; 42_control.md R130). -/

namespace Sys2Proof.Machine

/-- {NEG} (R26). -/
def flagN : CondBits := 0b100#3

/-- {ZERO} (R26). -/
def flagZ : CondBits := 0b010#3

/-- {POS} (R26). -/
def flagP : CondBits := 0b001#3

/-- The flag set of a result (R27). -/
def flagsOf (w : Word) : CondBits :=
  if w = 0x0000#16 then flagZ else if w.getLsbD 15 then flagN else flagP

/-- `setcc(w)` (R27). -/
def Vm.setcc (v : Vm) (w : Word) : Vm := { v with flags := flagsOf w }

/-- `x[DR] <- w; setcc(x[DR])`, how every flag-updating instruction ends (R28). -/
def Vm.writeResult (v : Vm) (dr : RegIdx) (w : Word) : Vm := (v.setReg dr w).setcc w

/-- Does BR branch: condition 000 always, else when a named flag is set (R130)? -/
def branchTaken (cond flags : CondBits) : Bool := decide (cond = 0b000#3 ∨ cond &&& flags ≠ 0b000#3)

end Sys2Proof.Machine
end

