-- ==== Sys2Proof/Machine/Operands.lean ====
section
/-! DEFINITION. Sign and zero extension and every operand form (00_scope.md R7, R8; 30_encoding.md R65; 41_data_movement.md R117). -/

namespace Sys2Proof.Machine

/-- `sext_N(v)`: sign extension of an N-bit field to 16 bits (R7). -/
def sext {n : Nat} (v : BitVec n) : Word := v.signExtend 16

/-- `zext_N(v)`: zero extension to 16 bits (R8). -/
def zext {n : Nat} (v : BitVec n) : Word := v.setWidth 16

/-- Bits [7:0] of a word (R152, R153, R155). -/
def lowByte (w : Word) : Byte := w.setWidth 8

/-- Bits [15:8] of a word (R155). -/
def highByte (w : Word) : Byte := w.extractLsb' 8 8

/-- The PC-relative address with a 9-bit offset (R117, R130). `pc` already holds the instruction's address + 1 (R23). -/
def Vm.pcRel9 (v : Vm) (off : BitVec 9) : Word := v.pc + sext off

/-- The PC-relative target of JSR, with an 11-bit offset (R132). -/
def Vm.pcRel11 (v : Vm) (off : BitVec 11) : Word := v.pc + sext off

/-- The base + offset address (R117). -/
def Vm.baseOffset (v : Vm) (base : RegIdx) (off : BitVec 6) : Word := v.reg base + sext off

/-- The pointer of the memory-indirect form: the word MemRead returns at the PC-relative address (R111, R115, R117). -/
def Vm.indirect (v : Vm) (off : BitVec 9) : Word := v.memRead (v.pcRel9 off)

/-- The VM after the pointer read of the memory-indirect form (R54, R111, R115). -/
def Vm.afterIndirect (v : Vm) (off : BitVec 9) : Vm := v.afterRead (v.pcRel9 off)

end Sys2Proof.Machine
end

