-- ==== Sys2Proof/Machine/Control.lean ====
section
/-! DEFINITION. BR, JMP, JSR, JSRR (42_control.md R130 to R134). The state is the one after the fetch (R73). -/

namespace Sys2Proof.Machine

/-- `x[7] <- pc`, the return address (R132, R133); with `JSR_SETS_FLAGS` = true the flags follow R7 (R132, D6). -/
def Vm.link (v : Vm) (cfg : Config) : Vm :=
  if cfg.jsrSetsFlags then v.writeResult 7 v.pc else v.setReg 7 v.pc

/-- BR (R130). -/
def execBr (cond : CondBits) (off : BitVec 9) (s : State) : Host.Outcome State Fault Refusal :=
  .next (s.onVm fun v => if branchTaken cond v.flags then { v with pc := v.pcRel9 off } else v)

/-- JMP (R131). -/
def execJmp (base : RegIdx) (s : State) : Host.Outcome State Fault Refusal :=
  .next (s.onVm fun v => { v with pc := v.reg base })

/-- JSR (R132). -/
def execJsr (off : BitVec 11) (s : State) : Host.Outcome State Fault Refusal :=
  .next (s.onVm fun v => { v.link s.cfg with pc := v.pcRel11 off })

/-- JSRR (R133): R7 is written first and BaseR is read after it, so that JSRR R7 goes on at the next word. -/
def execJsrr (base : RegIdx) (s : State) : Host.Outcome State Fault Refusal :=
  .next (s.onVm fun v => { v.link s.cfg with pc := (v.link s.cfg).reg base })

end Sys2Proof.Machine
end

