-- ==== Sys2Proof/Machine/DataMovement.lean ====
section
/-! DEFINITION. LD, LDI, LDR, LEA, ST, STI, STR (41_data_movement.md R110 to R117). The state is the one after the
fetch (R73). Every read goes through MemRead and every write through MemWrite (R48). -/

namespace Sys2Proof.Machine

/-- Read the word at `ea` into DR and set the flags from it (R110 to R112, R28). -/
def Vm.loadInto (v : Vm) (dr : RegIdx) (ea : Word) : Vm := (v.afterRead ea).writeResult dr (v.memRead ea)

/-- LD (R110). -/
def execLd (dr : RegIdx) (off : BitVec 9) (s : State) : Host.Outcome State Fault Refusal :=
  .next (s.onVm fun v => v.loadInto dr (v.pcRel9 off))

/-- LDI (R111): the pointer read, then the data read, each with its own side effect. -/
def execLdi (dr : RegIdx) (off : BitVec 9) (s : State) : Host.Outcome State Fault Refusal :=
  .next (s.onVm fun v => (v.afterIndirect off).loadInto dr (v.indirect off))

/-- LDR (R112). The base is read before DR is written. -/
def execLdr (dr base : RegIdx) (off : BitVec 6) (s : State) : Host.Outcome State Fault Refusal :=
  .next (s.onVm fun v => v.loadInto dr (v.baseOffset base off))

/-- LEA (R113): no memory access; the flags are set from the address. -/
def execLea (dr : RegIdx) (off : BitVec 9) (s : State) : Host.Outcome State Fault Refusal :=
  .next (s.onVm fun v => v.writeResult dr (v.pcRel9 off))

/-- ST (R114). -/
def execSt (sr : RegIdx) (off : BitVec 9) (s : State) : Host.Outcome State Fault Refusal :=
  .next (s.onVm fun v => v.memWrite (v.pcRel9 off) (v.reg sr))

/-- STI (R115): the pointer read with its side effect, then the plain store. -/
def execSti (sr : RegIdx) (off : BitVec 9) (s : State) : Host.Outcome State Fault Refusal :=
  .next (s.onVm fun v => (v.afterIndirect off).memWrite (v.indirect off) (v.reg sr))

/-- STR (R116). -/
def execStr (sr base : RegIdx) (off : BitVec 6) (s : State) : Host.Outcome State Fault Refusal :=
  .next (s.onVm fun v => v.memWrite (v.baseOffset base off) (v.reg sr))

end Sys2Proof.Machine
end

