-- ==== Sys2Proof/Machine/Operate.lean ====
section
/-! DEFINITION. ADD, AND, NOT (40_operate.md R100 to R105). The state is the one after the fetch (R73). -/

namespace Sys2Proof.Machine

/-- ADD, register form (R100). -/
def execAddReg (dr sr1 sr2 : RegIdx) (s : State) : Host.Outcome State Fault Refusal :=
  .next (s.onVm fun v => v.writeResult dr (v.reg sr1 + v.reg sr2))

/-- ADD, immediate form (R101). -/
def execAddImm (dr sr1 : RegIdx) (imm5 : BitVec 5) (s : State) : Host.Outcome State Fault Refusal :=
  .next (s.onVm fun v => v.writeResult dr (v.reg sr1 + sext imm5))

/-- AND, register form (R102). -/
def execAndReg (dr sr1 sr2 : RegIdx) (s : State) : Host.Outcome State Fault Refusal :=
  .next (s.onVm fun v => v.writeResult dr (v.reg sr1 &&& v.reg sr2))

/-- AND, immediate form (R103). -/
def execAndImm (dr sr1 : RegIdx) (imm5 : BitVec 5) (s : State) : Host.Outcome State Fault Refusal :=
  .next (s.onVm fun v => v.writeResult dr (v.reg sr1 &&& sext imm5))

/-- NOT (R104). -/
def execNot (dr sr : RegIdx) (s : State) : Host.Outcome State Fault Refusal :=
  .next (s.onVm fun v => v.writeResult dr (~~~ v.reg sr))

end Sys2Proof.Machine
end

