-- ==== Sys2Proof/Machine/System.lean ====
section
/-! DEFINITION. TRAP, RTI, RES (43_trap_and_reserved.md R140 to R142) and the TRAP words of the six services. The
engine "does not execute the trap itself" (R140): the services are in Machine/Services.lean. -/

namespace Sys2Proof.Machine

/-- TRAP (R140): trap entry with the low 8 bits of the word as the vector. -/
def execTrap (vector : BitVec 8) (s : State) : Host.Outcome State Fault Refusal :=
  .next (s.onVm fun v => v.enterTrap s.cfg vector)

/-- RTI (R141): unimplemented, stops the VM. -/
def execRti (s : State) : Host.Outcome State Fault Refusal := .next (s.onVm Vm.stop)

/-- RES (R142): the reserved opcode stops the VM. -/
def execRes (s : State) : Host.Outcome State Fault Refusal := .next (s.onVm Vm.stop)

/-- GETC as an instruction: TRAP x20 (R140, R150). -/
def execGetc (s : State) : Host.Outcome State Fault Refusal := .next (s.onVm fun v => v.enterTrap s.cfg 0x20#8)

/-- OUT as an instruction: TRAP x21 (R140, R150). -/
def execOut (s : State) : Host.Outcome State Fault Refusal := .next (s.onVm fun v => v.enterTrap s.cfg 0x21#8)

/-- PUTS as an instruction: TRAP x22 (R140, R150). -/
def execPuts (s : State) : Host.Outcome State Fault Refusal := .next (s.onVm fun v => v.enterTrap s.cfg 0x22#8)

/-- IN as an instruction: TRAP x23 (R140, R150). -/
def execIn (s : State) : Host.Outcome State Fault Refusal := .next (s.onVm fun v => v.enterTrap s.cfg 0x23#8)

/-- PUTSP as an instruction: TRAP x24 (R140, R150). -/
def execPutsp (s : State) : Host.Outcome State Fault Refusal := .next (s.onVm fun v => v.enterTrap s.cfg 0x24#8)

/-- HALT as an instruction: TRAP x25 (R140, R150). -/
def execHalt (s : State) : Host.Outcome State Fault Refusal := .next (s.onVm fun v => v.enterTrap s.cfg 0x25#8)

end Sys2Proof.Machine
end

