-- ==== Sys2Proof/Machine/Services.lean ====
section
/-! DEFINITION. The trap dispatcher and the console services (44_trap_services.md R150 to R159). Each is one atomic
step (R57) and executes no instruction. -/

namespace Sys2Proof.Machine

/-- What a service leaves: the VM, the events it emitted, in order, and how many free values it drew (D17). -/
structure Served where
  vm : Vm
  events : List OutEvent
  draws : Nat
  deriving DecidableEq, Repr

/-- The events of `Emit` for each byte (R159). -/
def bytesOut (bytes : List Byte) : List OutEvent := bytes.map OutEvent.byte

/-- R0 after GETC and IN: the pending key's low byte, zero-extended, or with no key the free value drawn (R151, R154). -/
def Vm.takenKey (v : Vm) (draw : Nat) : Word :=
  match v.pending with
  | some k => zext (lowByte k)
  | none => Config.freeKey draw

/-- How many free values taking the key draws. -/
def Vm.keyDraws (v : Vm) : Nat := if v.pending.isSome then 0 else 1

/-- `x[0] <- w` by a service; no flags, but with `TRAP_SETS_FLAGS` = true (R150, R28, D9). The pending key is gone
(R33, R151, R154). -/
def Vm.receiveKey (v : Vm) (cfg : Config) (w : Word) : Vm :=
  let v' := if cfg.trapSetsFlags then v.writeResult 0 w else v.setReg 0 w
  { v' with pending := none }

/-- GETC, trap 0x20 (R151). -/
def serviceGetc (cfg : Config) (draw : Nat) (v : Vm) : Served where
  vm := v.receiveKey cfg (v.takenKey draw)
  events := []
  draws := v.keyDraws

/-- OUT, trap 0x21 (R152). -/
def serviceOut (v : Vm) : Served where
  vm := v
  events := bytesOut [lowByte (v.reg 0)] ++ [.flush]
  draws := 0

/-- The words of the string at `a`, up to a zero word, looking at `fuel` words, addresses wrapping (R153, R155, D21);
none where no zero word was met. -/
def stringWords (v : Vm) : Nat → Word → Option (List Word)
  | 0, _ => none
  | fuel + 1, a =>
    if v.rawRead a = 0x0000#16 then some []
    else match stringWords v fuel (a + 1#16) with
      | some rest => some (v.rawRead a :: rest)
      | none => none

/-- The string at R0. 65536 words are all there are, so with none of them zero the walk never ends (R153, R155). -/
def Vm.stringAtR0 (v : Vm) : Option (List Word) := stringWords v 65536 (v.reg 0)

/-- The bytes PUTS emits for one word: the low byte (R153, D15). -/
def putsBytes (w : Word) : List Byte := [lowByte w]

/-- The bytes PUTSP emits for one word: the low byte always, then the high byte if nonzero (R155). -/
def putspBytes (w : Word) : List Byte :=
  if highByte w = 0x00#8 then [lowByte w] else [lowByte w, highByte w]

/-- PUTS, trap 0x22 (R153); none: the service never completes. -/
def servicePuts (v : Vm) : Option Served :=
  match v.stringAtR0 with
  | some words => some { vm := v, events := bytesOut (words.flatMap putsBytes) ++ [.flush], draws := 0 }
  | none => none

/-- IN, trap 0x23 (R154): the prompt, then the key's echo, then the flush. -/
def serviceIn (cfg : Config) (draw : Nat) (v : Vm) : Served where
  vm := v.receiveKey cfg (v.takenKey draw)
  events := bytesOut cfg.inPrompt ++ bytesOut [lowByte (v.takenKey draw)] ++ [.flush]
  draws := v.keyDraws

/-- PUTSP, trap 0x24 (R155); none: the service never completes. -/
def servicePutsp (v : Vm) : Option Served :=
  match v.stringAtR0 with
  | some words => some { vm := v, events := bytesOut (words.flatMap putspBytes) ++ [.flush], draws := 0 }
  | none => none

/-- HALT, trap 0x25 (R156). -/
def serviceHalt (cfg : Config) (v : Vm) : Served where
  vm := v.stop
  events := bytesOut cfg.haltNotice ++ [.flush]
  draws := 0

/-- Any other trap number: no operation (R157). -/
def serviceOther (v : Vm) : Served where
  vm := v
  events := []
  draws := 0

/-- The arms of the dispatcher on the low byte of the trap number (R150), on a VM already set to Running. -/
def serviceFor (cfg : Config) (draw : Nat) (v : Vm) (n : Byte) : Option Served :=
  match n.toNat with
  | 0x20 => some (serviceGetc cfg draw v)
  | 0x21 => some (serviceOut v)
  | 0x22 => servicePuts v
  | 0x23 => some (serviceIn cfg draw v)
  | 0x24 => servicePutsp v
  | 0x25 => some (serviceHalt cfg v)
  | _ => some (serviceOther v)

/-- `Trap(n)` (R150): nothing on a Stopped VM; else Running by default, then the service of n[7:0]. -/
def Vm.trapService (v : Vm) (cfg : Config) (draw : Nat) (n : Byte) : Option Served :=
  match v.run with
  | .stopped => some (serviceOther v)
  | _ => serviceFor cfg draw v.resume n

/-- `Trap(n)` on the VM at index `i` of the block: the events go to the shared stream (R159). A service that never
completes is a stuck state, named as a fault (log 13). -/
def trapAt (i : Nat) (n : Byte) (s : State) : Host.Outcome State Fault Refusal :=
  match s.vmAt i with
  | none => .refused .noSuchVm
  | some v => match v.trapService s.cfg s.draws n with
    | none => .fault .serviceNeverCompletes
    | some r => .next (((s.onVmAt i fun _ => r.vm).emit r.events).drawn r.draws)

end Sys2Proof.Machine
end

