-- ==== Sys2Proof/Machine/Engine.lean ====
section
/-! DEFINITION. One iteration of the engine's loop, RunFor, and the host's boot loop (30_encoding.md R73 to R77;
70_reset_and_hazards.md R214). -/

namespace Sys2Proof.Machine

/-- The operation in progress is inside the engine's loop with budget left (R73). -/
def Activity.inEngine : Activity → Bool
  | .idle => false
  | .drive => true
  | .runFor none => true
  | .runFor (some budget) => decide (budget ≠ 0)
  | .tick .service _ => false
  | .tick (.run budget) _ => decide (budget ≠ 0)
  | .schedule => false

/-- One unit of the budget is spent (R73, R75); an INFINITE budget and the boot loop have none. -/
def Activity.spend : Activity → Activity
  | .idle => .idle
  | .drive => .drive
  | .runFor none => .runFor none
  | .runFor (some budget) => .runFor (some (budget - 1))
  | .tick .service c => .tick .service c
  | .tick (.run budget) c => .tick (.run (budget - 1)) c
  | .schedule => .schedule

/-- The budget of the call in progress, one instruction later. -/
def State.spendTick (s : State) : State := { s with activity := s.activity.spend }

/-- The engine's next instruction: the decoding of the word it will fetch (R69, R73). -/
def Vm.nextInstr (v : Vm) : Instr := decode v.fetchedWord

/-- The block after the fetch of VM `cur` (R73). -/
def State.afterFetch (s : State) : State := s.onVm Vm.afterFetch

/-- One iteration of the engine's loop on VM `cur`, which holds `v`: fetch, increment pc, execute, spend one tick (R73,
R77). -/
def runInstr (v : Vm) (s : State) : Host.Outcome State Fault Refusal :=
  andThen (exec v.nextInstr s.afterFetch) State.spendTick

/-- The loop of RunFor goes on: the VM is Running and the budget is not used up (R73). -/
def State.engineTurn (s : State) : Bool :=
  s.activity.inEngine && match s.vm? with
    | some v => decide (v.run = .running)
    | none => false

/-- The budget RunFor starts with: absent or negative is INFINITE (R73). -/
def budgetOf : Option Int → Option Nat
  | none => none
  | some t => if t < 0 then none else some t.toNat

/-- A host's RunFor: an iteration, or the return of the execution state (R73 to R76). -/
def runForStep (s : State) : Host.Outcome State Fault Refusal :=
  match s.vm? with
  | none => .refused .noSuchVm
  | some v =>
    if s.engineTurn then runInstr v s
    else .next ({ s with activity := .idle }.reply (.state v.run))

/-- The host's boot loop (R214 step 3): an instruction while Running, a Trap call for each Trapped state, and the end at
Stopped (log 7). -/
def driveStep (s : State) : Host.Outcome State Fault Refusal :=
  match s.vm? with
  | none => .refused .noSuchVm
  | some v => match v.run with
    | .running => runInstr v s
    | .trapped n => trapAt s.cur n s
    | .stopped => .next { s with activity := .idle }

end Sys2Proof.Machine
end

