-- ==== Sys2Proof/Machine/RunBlock.lean ====
section
/-! DEFINITION. The run/block machine of one VM, `Tick()` (60_exceptions.md R177 to R181), and what its return does in
a round (R183, R187). -/

namespace Sys2Proof.Machine

/-- The resource a trap needs (R178). -/
inductive TrapClass where
  | input
  | output
  | unclassed
  deriving DecidableEq, Repr

/-- The classification of R178. -/
def trapClass (n : Byte) : TrapClass :=
  match n.toNat with
  | 0x20 => .input
  | 0x23 => .input
  | 0x21 => .output
  | 0x22 => .output
  | 0x24 => .output
  | _ => .unclassed

/-- Not blocked: both bits 0 (R34). -/
def Vm.unblocked (v : Vm) : Bool := !v.blockedInput && !v.blockedOutput

/-- After the RunFor of a Tick: a new Trapped state sets the blocked bit of its class (R177, R179). -/
def Vm.block (v : Vm) : Vm :=
  match v.run with
  | .running => v
  | .stopped => v
  | .trapped n => match trapClass n with
    | .input => { v with blockedInput := true }
    | .output => { v with blockedOutput := true }
    | .unclassed => v

/-- `still_running` (R181): the VM is not Stopped. -/
def Vm.alive (v : Vm) : Bool := decide (v.run ≠ .stopped)

/-- Mark the VM at an index as counted (R187). -/
def State.markCounted (s : State) (i : Nat) : State :=
  { s with vms := s.vms.modify i (fun slot => { slot with counted := true }) }

/-- A round hears of a Tick: a VM that has stopped is counted, once (R183, R187). -/
def State.account (s : State) (alive : Bool) : State :=
  match s.vms[s.cur]? with
  | none => s
  | some slot =>
    if !alive && !slot.counted then { s.markCounted s.cur with running := s.running - 1 } else s

/-- The round goes on with the next VM, or ends after the last (R183). -/
def State.nextInRound (s : State) (inScheduler : Bool) : State :=
  if s.cur + 1 < s.vms.length then
    { s with cur := s.cur + 1, activity := .tick .service (.round inScheduler) }
  else
    { s with cur := 0, activity := if inScheduler then .schedule else .idle }

/-- Tick returns `still_running` to its caller (R177 step 4, R181, R183). DESIGN CHOICE: a Tick that the host calls itself
counts nothing, even when it is the VM's first to return false; the VM's next Tick in a round counts it (R187; log 17). -/
def State.tickReturn (s : State) (caller : Caller) (alive : Bool) : State :=
  match caller with
  | .host => { s with activity := .idle }.reply (.stillRunning alive)
  | .round inScheduler => (s.account alive).nextInRound inScheduler

/-- Tick goes on to step 3 (R177). -/
def State.enterTickRun (s : State) (caller : Caller) : State :=
  { s with activity := .tick (.run s.cfg.tickQuota) caller }

/-- Tick, steps 1 and 2 (R177): nothing for a Stopped or a blocked VM; a pending trap is serviced. -/
def tickService (caller : Caller) (s : State) : Host.Outcome State Fault Refusal :=
  match s.vm? with
  | none => .refused .noSuchVm
  | some v => match v.run with
    | .stopped => .next (s.tickReturn caller false)
    | .running => .next (s.enterTickRun caller)
    | .trapped n =>
      if v.unblocked then andThen (trapAt s.cur n s) (fun t => t.enterTickRun caller)
      else .next (s.tickReturn caller true)

/-- Tick, steps 3 and 4 (R177): the iterations of RunFor(TICK_QUOTA); when it returns, the blocked bit and the report. -/
def tickRun (caller : Caller) (s : State) : Host.Outcome State Fault Refusal :=
  match s.vm? with
  | none => .refused .noSuchVm
  | some v =>
    if s.engineTurn then runInstr v s
    else .next ((s.onVm Vm.block).tickReturn caller v.alive)

/-- One step of a Tick in progress. -/
def tickStep (phase : TickPhase) (caller : Caller) (s : State) : Host.Outcome State Fault Refusal :=
  match phase with
  | .service => tickService caller s
  | .run _ => tickRun caller s

end Sys2Proof.Machine
end

