-- ==== Sys2Proof/Machine/Scheduler.lean ====
section
/-! DEFINITION. The cooperative scheduler: AddVm, the start of a round, console ownership, termination
(60_exceptions.md R182 to R191). -/

namespace Sys2Proof.Machine

/-- `PollKey()` (R190): the host's next polled result; a host with none left returns no key (log 9). -/
def State.polledKey (s : State) : Option Word :=
  match s.keys with
  | [] => none
  | k :: _ => k

/-- The poll is over. -/
def State.afterPoll (s : State) : State := { s with keys := s.keys.tail }

/-- `owner <- (owner + 1) mod n` (R184). Stopped VMs are not skipped, and no blocked bit changes. DESIGN CHOICE: with no
VM there is no owner (R36) and `mod 0` has no meaning; the spec gives no outcome, and the model leaves no owner and goes
on (log 25); `n` counts every VM of the collection, a bare one too (log 16). -/
def State.cycleOwner (s : State) : State := { s with owner := s.owner.map (fun o => (o + 1) % s.vms.length) }

/-- Change the console owner's VM; with no owner, nothing (R183, R36). -/
def State.onOwner (s : State) (f : Vm → Vm) : State :=
  match s.owner with
  | none => s
  | some o => s.onVmAt o f

/-- Key delivery to one VM: `SetKey(k)`, and `blocked.INPUT` cleared (R185). -/
def Vm.deliverKey (v : Vm) (k : Word) : Vm := { v.setKey k with blockedInput := false }

/-- `blocked.OUTPUT` of the owner is cleared (R186). -/
def Vm.clearOutput (v : Vm) : Vm := { v with blockedOutput := false }

/-- The key step of a round: nothing, the Escape cycle, or delivery to the owner (R183 to R185). -/
def State.keyStep (s : State) (k : Option Word) : State :=
  match k with
  | none => s
  | some k => if k = s.cfg.escapeKey then s.cycleOwner else s.onOwner (fun v => v.deliverKey k)

/-- The start of a round (R183): the poll, the key step, the owner's output bit, then the Tick of VM 0. With no VM the
round ends at once. -/
def State.beginRound (s : State) (inScheduler : Bool) : State :=
  let t := (s.afterPoll.keyStep s.polledKey).onOwner Vm.clearOutput
  if t.vms.isEmpty then { t with activity := if inScheduler then .schedule else .idle }
  else { t with cur := 0, activity := .tick .service (.round inScheduler) }

/-- `RunScheduler` before a round: it ends when the running-count is zero (R183, R188). -/
def scheduleStep (s : State) : Host.Outcome State Fault Refusal :=
  if s.running = 0 then .next { s with activity := .idle } else .next (s.beginRound true)

/-- A VM joins the collection at its end, at the next index (R36, R182). -/
def State.append (s : State) (v : Vm) (joined : Bool) : State :=
  { s with vms := s.vms ++ [{ vm := v, counted := false, joined := joined }] }

/-- The effect of `AddVm` on the scheduler: the VM is added, it is counted as running, and the first one brings owner 0
(R36, R182; D30, D33). DESIGN CHOICE: beside bare VMs it takes the next index of the whole collection, so owner 0 can name
a bare VM (log 16). -/
def State.join (s : State) (v : Vm) : State :=
  { s.append v true with owner := some (s.owner.getD 0), running := s.running + 1 }

/-- `AddVm(image_loader)` (R182): construct, load, Reset, and join; refused once rounds have begun (D29). -/
def addVm (images : List Image) (s : State) : Host.Outcome State Fault Refusal :=
  if s.started then .refused .addVmAfterFirstRound
  else match (Vm.construct s.cfg s.draws).loadAll images with
    | none => .refused .loadOutOfRange
    | some v => .next ((s.join v.reset).drawn 1)

/-- The host starts rounds: all VMs must have been added by AddVm, and no more may be added (R182; log 15, log 16). -/
def startRounds (f : State → State) (s : State) : Host.Outcome State Fault Refusal :=
  if s.vms.all Slot.joined then .next (f { s with started := true }) else .refused .schedulerHoldsBareVm

end Sys2Proof.Machine
end

