-- ==== Sys2Proof/Machine/HostCalls.lean ====
section
/-! DEFINITION. The host-facing operations (60_exceptions.md R193). Each completes before the next begins (R57). -/

namespace Sys2Proof.Machine

/-- A call on the VM at index `i` that changes that VM only. -/
def onVmCall (i : Nat) (f : Vm → Vm) (s : State) : Host.Outcome State Fault Refusal :=
  match s.vmAt i with
  | none => .refused .noSuchVm
  | some _ => .next (s.onVmAt i f)

/-- A call that begins an operation on the VM at index `i`. -/
def beginOn (i : Nat) (a : Activity) (s : State) : Host.Outcome State Fault Refusal :=
  match s.vmAt i with
  | none => .refused .noSuchVm
  | some _ => .next { s with cur := i, activity := a }

/-- A bare construction (R210). DESIGN CHOICE: the bare VM takes an index of the collection, though it is never scheduled
(log 16). -/
def hostConstruct (s : State) : Host.Outcome State Fault Refusal :=
  if s.started then .refused .addVmAfterFirstRound
  else .next ((s.append (Vm.construct s.cfg s.draws) false).drawn 1)

/-- `Load` (R53). DESIGN CHOICE: a Load after the first round, which R193 tells the host not to make and gives no outcome,
is performed as R53 says (log 26). -/
def hostLoad (i : Nat) (img : Image) (s : State) : Host.Outcome State Fault Refusal :=
  match s.vmAt i with
  | none => .refused .noSuchVm
  | some v => match v.load img with
    | none => .refused .loadOutOfRange
    | some v' => .next (s.onVmAt i fun _ => v')

/-- `Trap(n)` by the host, which gets the execution state back (R150, R193). -/
def hostTrap (i : Nat) (n : Word) (s : State) : Host.Outcome State Fault Refusal :=
  andThen (trapAt i (lowByte n) s) fun t => match t.vmAt i with
    | none => t
    | some v => t.reply (.state v.run)

/-- The trap-number accessor: a value only while Trapped (R38, D23). -/
def Vm.trapNumber (v : Vm) : Option (BitVec 8) :=
  match v.run with
  | .running => none
  | .stopped => none
  | .trapped n => some n

/-- What an inspection of a VM returns, or why it has no value (R38, R210). -/
def Vm.answer (v : Vm) : Query → Except Refusal Reply
  | .isRunning => .ok (.truth (decide (v.run = .running)))
  | .isStopped => .ok (.truth (decide (v.run = .stopped)))
  | .isTrapped => .ok (.truth v.trapNumber.isSome)
  | .trapNumber => match v.trapNumber with
    | some n => .ok (.trapNumber n)
    | none => .error .noTrapNumber
  | .register r => if v.initialised then .ok (.register (v.reg r)) else .error .registersHaveNoValue
  | .conditionFlags => if v.initialised then .ok (.conditionFlags v.flags) else .error .registersHaveNoValue

/-- An inspection changes nothing but what the host has been told (R38). -/
def hostInspect (i : Nat) (q : Query) (s : State) : Host.Outcome State Fault Refusal :=
  match s.vmAt i with
  | none => .refused .noSuchVm
  | some v => match v.answer q with
    | .ok r => .next (s.reply r)
    | .error e => .refused e

/-- One host call, already taken from the script. DESIGN CHOICE: the time before the first round counts as "between
rounds" (R184, R193), so `CycleOwner` is accepted there, and rounds may begin with an owner other than 0 (log 24).
DESIGN CHOICE: `RunScheduler` called after rounds have run, whether lone Rounds or an earlier `RunScheduler` that has ended,
keeps the owner, the running-count and the counted marks as they are; R182 sets them "when the scheduler starts" and names
no restart (log 28). -/
def hostCall (c : HostCall) (s : State) : Host.Outcome State Fault Refusal :=
  match c with
  | .construct => hostConstruct s
  | .addVm images => addVm images s
  | .reset i => onVmCall i Vm.reset s
  | .load i img => hostLoad i img s
  | .setKey i k => onVmCall i (fun v => v.setKey k) s
  | .runFor i ticks => beginOn i (.runFor (budgetOf ticks)) s
  | .trap i n => hostTrap i n s
  | .tick i => beginOn i (.tick .service .host) s
  | .inspect i q => hostInspect i q s
  | .cycleOwner => .next s.cycleOwner
  | .round => startRounds (fun t => t.beginRound false) s
  | .runScheduler => startRounds (fun t => { t with activity := .schedule }) s
  | .drive i => beginOn i .drive s

/-- The host moves: its next call, or nothing when it has none left (R193; log 9). -/
def hostStep (s : State) : Host.Outcome State Fault Refusal :=
  match s.script with
  | [] => .next s
  | c :: rest => hostCall c { s with script := rest }

end Sys2Proof.Machine
end

