-- ==== Sys2Proof/Machine/Fetch.lean ====
section
/-! DEFINITION. Placing one instruction where the next step fetches it (for the host's questions about one word). -/

namespace Sys2Proof.Machine

/-- VM with `w` at its pc, Running. A pc at the keyboard-status address moves to 0x3000, since a fetch there latches the
status word over whatever is stored (R44, R48; log 22). -/
def Vm.withWord (v : Vm) (w : Word) : Vm :=
  let v' := if v.pc = kbsr then { v with pc := startPc } else v
  { v' with mem := v'.mem.write v'.pc w, run := .running }

/-- The block with a VM at index `cur`: unchanged where there is one; else VM 0, a fresh one where there is none. -/
def State.withSomeVm (s : State) : State :=
  match s.vm? with
  | some _ => s
  | none => match s.vms with
    | [] => { s.append State.resetVm true with cur := 0 }
    | _ :: _ => { s with cur := 0 }

/-- The operation in progress, if it executes instructions now; else the boot loop. -/
def State.withEngineTurn (s : State) : State :=
  if s.activity.inEngine then s else { s with activity := .drive }

end Sys2Proof.Machine
end

