-- ==== Sys2Proof/Machine/Step.lean ====
section
/-! DEFINITION. One step of the block: the one agent that moves next moves (00_scope.md R6; log 8). -/

namespace Sys2Proof.Machine

/-- One step: one instruction, one service, one boundary of a Tick, one round start, or one host call. -/
def step (s : State) : Host.Outcome State Fault Refusal :=
  match s.activity with
  | .idle => hostStep s
  | .drive => driveStep s
  | .runFor _ => runForStep s
  | .tick phase caller => tickStep phase caller s
  | .schedule => scheduleStep s

/-- The state with one instruction word where `step` fetches next, and whatever that fetch needs (log 7, log 22). -/
def State.withFetchWord (s : State) (nbits w : Nat) : State :=
  (s.withSomeVm.withEngineTurn).onVm fun v => v.withWord (BitVec.ofNat 16 (w % 2 ^ nbits))

end Sys2Proof.Machine
end

