-- ==== Sys2Proof/Safety.lean ====
section
/-! DEFINITION. What claims are stated in: what one operation leaves alone, and the invariants of the block. -/

namespace Sys2Proof.Machine

/-! ### Frames -/

/-- `t` is `s` but for the VM at index `i`, whose marks stay (R39): every other VM, the scheduler, the parameters, the
streams, the host and the operation in progress are the same. -/
structure State.SameBut (s t : State) (i : Nat) : Prop where
  cfg : t.cfg = s.cfg
  owner : t.owner = s.owner
  running : t.running = s.running
  started : t.started = s.started
  cur : t.cur = s.cur
  activity : t.activity = s.activity
  script : t.script = s.script
  keys : t.keys = s.keys
  output : t.output = s.output
  replies : t.replies = s.replies
  draws : t.draws = s.draws
  count : t.vms.length = s.vms.length
  others : ∀ j : Nat, j ≠ i → t.vms[j]? = s.vms[j]?
  counted : t.vms[i]?.map Slot.counted = s.vms[i]?.map Slot.counted
  joined : t.vms[i]?.map Slot.joined = s.vms[i]?.map Slot.joined

/-- Every word of memory reads as before. -/
def Vm.SameMemory (v v' : Vm) : Prop := ∀ a : Word, v'.mem.read a = v.mem.read a

/-- Every word of memory but that at `a` reads as before. -/
def Vm.SameMemoryBut (v v' : Vm) (a : Word) : Prop := ∀ b : Word, b ≠ a → v'.mem.read b = v.mem.read b

/-- Every register reads as before. -/
def Vm.SameRegs (v v' : Vm) : Prop := ∀ r : RegIdx, v'.reg r = v.reg r

/-- Every register but `dr` reads as before. -/
def Vm.SameRegsBut (v v' : Vm) (dr : RegIdx) : Prop := ∀ r : RegIdx, r ≠ dr → v'.reg r = v.reg r

/-- The blocked bits, and the mark that the VM has been Reset, are as before. -/
def Vm.SameBlocked (v v' : Vm) : Prop :=
  v'.blockedInput = v.blockedInput ∧ v'.blockedOutput = v.blockedOutput ∧ v'.initialised = v.initialised

/-- The execution state, the pending key and the blocked bits are as before. -/
def Vm.SameControl (v v' : Vm) : Prop := v'.run = v.run ∧ v'.pending = v.pending ∧ v.SameBlocked v'

/-- A service leaves all but the VM at `i`, the output stream and the count of free values drawn. -/
def State.SameButServed (s t : State) (i : Nat) : Prop := s.SameBut { t with output := s.output, draws := s.draws } i

/-- `x[dr] = w` with the flags of `w`, and nothing else of the VM changed (R28). -/
structure Vm.OnlyResult (v v' : Vm) (dr : RegIdx) (w : Word) : Prop where
  result : v'.reg dr = w
  flags : v'.flags = flagsOf w
  regs : v.SameRegsBut v' dr
  memory : v.SameMemory v'
  pc : v'.pc = v.pc
  control : v.SameControl v'

/-- A load of the word at `ea` into `dr`: MemRead's word and MemRead's side effect, the flags of the word, and nothing
else of the VM changed (R110, R44). -/
structure Vm.OnlyLoaded (v v' : Vm) (dr : RegIdx) (ea : Word) : Prop where
  result : v'.reg dr = v.memRead ea
  flags : v'.flags = flagsOf (v.memRead ea)
  regs : v.SameRegsBut v' dr
  memory : (v.afterRead ea).SameMemory v'
  pending : v'.pending = (v.afterRead ea).pending
  pc : v'.pc = v.pc
  run : v'.run = v.run
  blocked : v.SameBlocked v'
  plain : ea ≠ kbsr → v.SameMemory v' ∧ v'.pending = v.pending
  status : v.mem.wf = true → ea = kbsr → v'.reg dr = if v.pending.isSome then 0x8000#16 else 0x0000#16

/-- The word `w` stored at `ea`, and nothing else of the VM changed (R46). Reading it back rests on the memory's
canonical form, which every step keeps (`State.Inv`). -/
structure Vm.OnlyStored (v v' : Vm) (ea w : Word) : Prop where
  stored : v.mem.wf = true → v'.mem.read ea = w
  memory : v.SameMemoryBut v' ea
  regs : v.SameRegs v'
  flags : v'.flags = v.flags
  pc : v'.pc = v.pc
  control : v.SameControl v'

/-- Only the program counter of the VM changes, to `target`. -/
structure Vm.OnlyPc (v v' : Vm) (target : Word) : Prop where
  pc : v'.pc = target
  regs : v.SameRegs v'
  flags : v'.flags = v.flags
  memory : v.SameMemory v'
  control : v.SameControl v'

/-- A service changes the execution state to `run`, and of the VM nothing else but what the service's own statement
names: the registers but R0, the memory, pc and the blocked bits stay (R150). -/
structure Vm.ServiceFrame (v v' : Vm) (run : RunState) : Prop where
  run : v'.run = run
  regs : v.SameRegsBut v' 0
  memory : v.SameMemory v'
  pc : v'.pc = v.pc
  blocked : v.SameBlocked v'

/-! ### Loaded images (R53) -/

/-- The word an image puts at address `a`, if `a` is in its range: `M[origin + i] <- supplier(i)` (R53). -/
def Image.wordAt (img : Image) (a : Word) : Option Word :=
  if img.origin.toNat ≤ a.toNat then img.words[a.toNat - img.origin.toNat]? else none

/-- What address `a` holds after the images were loaded in order over a memory that held `w` there: the last image that
covers `a` decides (R53, R182). -/
def wordAfterLoads (images : List Image) (a w : Word) : Word := images.foldl (fun w img => (img.wordAt a).getD w) w

/-! ### Reading an instruction word (R10) -/

/-- `w[hi:lo]`, read as an unsigned number (R10). -/
def bitsAt (w : Word) (hi lo : Nat) : Nat := w.toNat / 2 ^ lo % 2 ^ (hi + 1 - lo)

/-- The register a 3-bit field names (R63). -/
def regAt (w : Word) (hi lo : Nat) : RegIdx := Fin.ofNat 8 (bitsAt w hi lo)

/-! ### Which instructions write what (R22, R28) -/

/-- The flag-updating instructions (R28). -/
def updatesFlags : Instr → Bool
  | .addReg _ _ _ => true
  | .addImm _ _ _ => true
  | .andReg _ _ _ => true
  | .andImm _ _ _ => true
  | .not _ _ => true
  | .ld _ _ => true
  | .ldi _ _ => true
  | .ldr _ _ _ => true
  | .lea _ _ => true
  | .br _ _ => false
  | .st _ _ => false
  | .jsr _ => false
  | .jsrr _ => false
  | .str _ _ _ => false
  | .rti => false
  | .sti _ _ => false
  | .jmp _ => false
  | .res => false
  | .trap _ => false
  | .getc => false
  | .out => false
  | .puts => false
  | .in_ => false
  | .putsp => false
  | .halt => false

/-- The register an instruction writes, if any (R22), with `TRAP_WRITES_R7` = false. -/
def writesReg : Instr → Option RegIdx
  | .addReg dr _ _ => some dr
  | .addImm dr _ _ => some dr
  | .andReg dr _ _ => some dr
  | .andImm dr _ _ => some dr
  | .not dr _ => some dr
  | .ld dr _ => some dr
  | .ldi dr _ => some dr
  | .ldr dr _ _ => some dr
  | .lea dr _ => some dr
  | .jsr _ => some 7
  | .jsrr _ => some 7
  | .br _ _ => none
  | .st _ _ => none
  | .str _ _ _ => none
  | .rti => none
  | .sti _ _ => none
  | .jmp _ => none
  | .res => none
  | .trap _ => none
  | .getc => none
  | .out => none
  | .puts => none
  | .in_ => none
  | .putsp => none
  | .halt => none

/-- Where an instruction stores, computed on the VM after the fetch as the meanings compute it (R114 to R116). -/
def storesTo (v : Vm) : Instr → Option Word
  | .st _ off => some (v.pcRel9 off)
  | .sti _ off => some (v.indirect off)
  | .str _ base off => some (v.baseOffset base off)
  | .addReg _ _ _ => none
  | .addImm _ _ _ => none
  | .andReg _ _ _ => none
  | .andImm _ _ _ => none
  | .not _ _ => none
  | .ld _ _ => none
  | .ldi _ _ => none
  | .ldr _ _ _ => none
  | .lea _ _ => none
  | .br _ _ => none
  | .jsr _ => none
  | .jsrr _ => none
  | .rti => none
  | .jmp _ => none
  | .res => none
  | .trap _ => none
  | .getc => none
  | .out => none
  | .puts => none
  | .in_ => none
  | .putsp => none
  | .halt => none

/-- The execution state an instruction leaves, if it changes it (43_trap_and_reserved.md R140 to R142). -/
def newRunState : Instr → Option RunState
  | .trap n => some (.trapped n)
  | .getc => some (.trapped 0x20#8)
  | .out => some (.trapped 0x21#8)
  | .puts => some (.trapped 0x22#8)
  | .in_ => some (.trapped 0x23#8)
  | .putsp => some (.trapped 0x24#8)
  | .halt => some (.trapped 0x25#8)
  | .rti => some .stopped
  | .res => some .stopped
  | .addReg _ _ _ => none
  | .addImm _ _ _ => none
  | .andReg _ _ _ => none
  | .andImm _ _ _ => none
  | .not _ _ => none
  | .ld _ _ => none
  | .ldi _ _ => none
  | .ldr _ _ _ => none
  | .lea _ _ => none
  | .br _ _ => none
  | .st _ _ => none
  | .sti _ _ => none
  | .str _ _ _ => none
  | .jsr _ => none
  | .jsrr _ => none
  | .jmp _ => none

/-! ### What the next step does -/

/-- The next step performs `Trap(n)` on VM `j`, which is `v`: the boot loop or a Tick on VM `cur`, or a direct host call
(R150, R177, R214). -/
def State.Serves (s : State) (j : Nat) (v : Vm) (n : Byte) : Prop :=
  (s.cur = j ∧ v.run = .trapped n ∧
      (s.activity = .drive ∨ ∃ c, s.activity = .tick .service c ∧ v.unblocked = true)) ∨
    (s.activity = .idle ∧ ∃ m, s.script.head? = some (.trap j m) ∧ n = lowByte m)

/-- A round begins with the next step (R183). -/
def State.RoundBegins (s : State) : Prop :=
  (s.activity = .schedule ∧ s.running ≠ 0) ∨ (s.activity = .idle ∧ s.script.head? = some .round)

/-- The next step is the host call `c` (R193). -/
def State.HostCalls (s : State) (c : HostCall) : Prop := s.activity = .idle ∧ s.script.head? = some c

/-- The next step begins a round that runs: inside `RunScheduler` (`loop`), or called alone by the host over VMs that AddVm
added (log 17). -/
def State.RoundRuns (s : State) (loop : Bool) : Prop :=
  (loop = true ∧ s.activity = .schedule ∧ s.running ≠ 0) ∨
    (loop = false ∧ s.HostCalls .round ∧ ∀ slot ∈ s.vms, slot.joined = true)

/-- What the start of a round leaves, but for the owner and the VMs: one poll is used up (R190), the Tick of VM 0 comes
next (R183), and the rest of the scheduler, the marks of every VM, the streams and the host stay. -/
structure State.RoundStarted (s t : State) (loop : Bool) : Prop where
  keys : t.keys = s.keys.tail
  next : t.activity = .tick .service (.round loop) ∧ t.cur = 0
  running : t.running = s.running
  count : t.vms.length = s.vms.length
  counted : ∀ j : Nat, t.vms[j]?.map Slot.counted = s.vms[j]?.map Slot.counted
  joined : ∀ j : Nat, t.vms[j]?.map Slot.joined = s.vms[j]?.map Slot.joined
  cfg : t.cfg = s.cfg
  output : t.output = s.output
  replies : t.replies = s.replies
  draws : t.draws = s.draws
  script : t.script = if loop then s.script else s.script.tail
  started : t.started = (s.started || !loop)

/-! ### The invariant of the block -/

/-- A legal flag set: none, or exactly one flag (R27, R30). -/
abbrev legalFlags (f : CondBits) : Prop := f = 0b000#3 ∨ f = flagN ∨ f = flagZ ∨ f = flagP

/-- What holds of every VM: memory in canonical form, legal flags once it has been Reset, and before that Stopped. -/
structure Vm.Good (v : Vm) : Prop where
  memory : v.mem.wf = true
  flags : v.initialised = true → legalFlags v.flags
  bare : v.initialised = false → v.run = .stopped

/-- The operation in progress works on VM `cur`. -/
def Activity.onCur : Activity → Bool
  | .idle => false
  | .drive => true
  | .runFor _ => true
  | .tick _ _ => true
  | .schedule => false

/-- The operation in progress is part of a round or of the scheduler's loop. -/
def Activity.inRounds : Activity → Bool
  | .idle => false
  | .drive => false
  | .runFor _ => false
  | .tick _ .host => false
  | .tick _ (.round _) => true
  | .schedule => true

/-- A VM of the scheduler that has not been counted as stopped (R36, R187). -/
def Slot.stillCounts (slot : Slot) : Bool := slot.joined && !slot.counted

/-- The invariant of the block: the memories' canonical form (R40), legal flags (R27, R30), the running-count (R36,
R187), a console owner exactly when a VM was added, and in range (R36), and the operation in progress on a VM there is. -/
structure State.Inv (s : State) : Prop where
  initMem : s.cfg.initMem.wf = true
  vms : ∀ slot ∈ s.vms, slot.vm.Good
  runningCount : s.running = (s.vms.filter Slot.stillCounts).length
  noOwner : s.owner = none → ∀ slot ∈ s.vms, slot.joined = false
  ownerInRange : ∀ o : Nat, s.owner = some o → o < s.vms.length
  curInRange : s.activity.onCur = true → s.cur < s.vms.length
  roundsJoined : s.activity.inRounds = true → ∀ slot ∈ s.vms, slot.joined = true

/-! ### The blocked bits under the scheduler (R34, R180) -/

/-- The host call leaves the run/block machine to Tick: it is no Reset, no direct Trap and no boot loop (log 14). -/
def HostCall.handsOff : HostCall → Bool
  | .construct => true
  | .addVm _ => true
  | .reset _ => false
  | .load _ _ => true
  | .setKey _ _ => true
  | .runFor _ _ => true
  | .trap _ _ => false
  | .tick _ => true
  | .inspect _ _ => true
  | .cycleOwner => true
  | .round => true
  | .runScheduler => true
  | .drive _ => false

/-- A blocked bit is 1 only while the VM is Trapped on a trap of that bit's class (R179, R180). -/
structure Vm.BlockedByTrap (v : Vm) : Prop where
  input : v.blockedInput = true → ∃ n, v.run = .trapped n ∧ trapClass n = .input
  output : v.blockedOutput = true → ∃ n, v.run = .trapped n ∧ trapClass n = .output

/-- The host leaves the run/block machines to Tick, and every blocked bit belongs to the trap that set it. -/
structure State.BlockInv (s : State) : Prop where
  script : ∀ c ∈ s.script, c.handsOff = true
  activity : s.activity ≠ .drive
  vms : ∀ slot ∈ s.vms, slot.vm.BlockedByTrap

/-- A run of the block stops safely: no step of it is refused (a service that never completes is a hang, R153, not a
refusal). -/
def SafeStep (s : State) : Prop := ∀ r : Refusal, step s ≠ .refused r

end Sys2Proof.Machine
end

