-- ==== Sys2Proof/Certificates/Slice0/Obligations.lean ====
section
/-! DEFINITION. The statements about the model, one per numbered rule of spec/ or per law of the whole machine. An
instruction's statement is about `exec` on the state after the fetch, where pc holds the instruction's address + 1
(R23); `StepRunsDecodedInstruction` carries it to a step. -/

open Sys2Proof Sys2Proof.Machine

/-! ## Operate instructions (40_operate.md) -/

/-- R100: ADD, register form, from its words to its result and its frame. -/
def Obligations.AddRegisterForm : Prop :=
  (∀ w : Word, w &&& 0xF020#16 = 0x1000#16 → decode w = .addReg (regAt w 11 9) (regAt w 8 6) (regAt w 2 0)) ∧
  ∀ (s : State) (v : Vm) (dr sr1 sr2 : RegIdx), s.vm? = some v →
    ∃ t v', exec (.addReg dr sr1 sr2) s = .next t ∧ s.SameBut t s.cur ∧ t.vm? = some v' ∧
      v.OnlyResult v' dr (v.reg sr1 + v.reg sr2)

/-- R101: ADD, immediate form. -/
def Obligations.AddImmediateForm : Prop :=
  (∀ w : Word, w &&& 0xF020#16 = 0x1020#16 →
    decode w = .addImm (regAt w 11 9) (regAt w 8 6) (BitVec.ofNat 5 (bitsAt w 4 0))) ∧
  ∀ (s : State) (v : Vm) (dr sr1 : RegIdx) (imm5 : BitVec 5), s.vm? = some v →
    ∃ t v', exec (.addImm dr sr1 imm5) s = .next t ∧ s.SameBut t s.cur ∧ t.vm? = some v' ∧
      v.OnlyResult v' dr (v.reg sr1 + sext imm5)

/-- R102: AND, register form. -/
def Obligations.AndRegisterForm : Prop :=
  (∀ w : Word, w &&& 0xF020#16 = 0x5000#16 → decode w = .andReg (regAt w 11 9) (regAt w 8 6) (regAt w 2 0)) ∧
  ∀ (s : State) (v : Vm) (dr sr1 sr2 : RegIdx), s.vm? = some v →
    ∃ t v', exec (.andReg dr sr1 sr2) s = .next t ∧ s.SameBut t s.cur ∧ t.vm? = some v' ∧
      v.OnlyResult v' dr (v.reg sr1 &&& v.reg sr2)

/-- R103: AND, immediate form. -/
def Obligations.AndImmediateForm : Prop :=
  (∀ w : Word, w &&& 0xF020#16 = 0x5020#16 →
    decode w = .andImm (regAt w 11 9) (regAt w 8 6) (BitVec.ofNat 5 (bitsAt w 4 0))) ∧
  ∀ (s : State) (v : Vm) (dr sr1 : RegIdx) (imm5 : BitVec 5), s.vm? = some v →
    ∃ t v', exec (.andImm dr sr1 imm5) s = .next t ∧ s.SameBut t s.cur ∧ t.vm? = some v' ∧
      v.OnlyResult v' dr (v.reg sr1 &&& sext imm5)

/-- R104: NOT. -/
def Obligations.NotComplementsRegister : Prop :=
  (∀ w : Word, w &&& 0xF000#16 = 0x9000#16 → decode w = .not (regAt w 11 9) (regAt w 8 6)) ∧
  ∀ (s : State) (v : Vm) (dr sr : RegIdx), s.vm? = some v →
    ∃ t v', exec (.not dr sr) s = .next t ∧ s.SameBut t s.cur ∧ t.vm? = some v' ∧
      v.OnlyResult v' dr (~~~ v.reg sr)

/-! ## Data movement (41_data_movement.md) -/

/-- R110: LD. -/
def Obligations.LoadPcRelative : Prop :=
  (∀ w : Word, w &&& 0xF000#16 = 0x2000#16 → decode w = .ld (regAt w 11 9) (BitVec.ofNat 9 (bitsAt w 8 0))) ∧
  ∀ (s : State) (v : Vm) (dr : RegIdx) (off : BitVec 9), s.vm? = some v →
    ∃ t v', exec (.ld dr off) s = .next t ∧ s.SameBut t s.cur ∧ t.vm? = some v' ∧
      v.OnlyLoaded v' dr (v.pc + sext off)

/-- R111: LDI, the pointer read at `a` first, then the data read at the pointer, each with MemRead's side effect. -/
def Obligations.LoadIndirect : Prop :=
  (∀ w : Word, w &&& 0xF000#16 = 0xA000#16 → decode w = .ldi (regAt w 11 9) (BitVec.ofNat 9 (bitsAt w 8 0))) ∧
  ∀ (s : State) (v : Vm) (dr : RegIdx) (off : BitVec 9) (a : Word), s.vm? = some v → a = v.pc + sext off →
    ∃ t v', exec (.ldi dr off) s = .next t ∧ s.SameBut t s.cur ∧ t.vm? = some v' ∧
      (v.afterRead a).OnlyLoaded v' dr (v.memRead a) ∧
      v.SameRegsBut v' dr ∧ v'.pc = v.pc ∧ v'.run = v.run ∧ v.SameBlocked v' ∧
      (a ≠ kbsr → v.OnlyLoaded v' dr (v.memRead a))

/-- R112: LDR. -/
def Obligations.LoadBaseOffset : Prop :=
  (∀ w : Word, w &&& 0xF000#16 = 0x6000#16 →
    decode w = .ldr (regAt w 11 9) (regAt w 8 6) (BitVec.ofNat 6 (bitsAt w 5 0))) ∧
  ∀ (s : State) (v : Vm) (dr base : RegIdx) (off : BitVec 6), s.vm? = some v →
    ∃ t v', exec (.ldr dr base off) s = .next t ∧ s.SameBut t s.cur ∧ t.vm? = some v' ∧
      v.OnlyLoaded v' dr (v.reg base + sext off)

/-- R113: LEA makes no memory access and sets the flags from the address. -/
def Obligations.LoadEffectiveAddress : Prop :=
  (∀ w : Word, w &&& 0xF000#16 = 0xE000#16 → decode w = .lea (regAt w 11 9) (BitVec.ofNat 9 (bitsAt w 8 0))) ∧
  ∀ (s : State) (v : Vm) (dr : RegIdx) (off : BitVec 9), s.vm? = some v →
    ∃ t v', exec (.lea dr off) s = .next t ∧ s.SameBut t s.cur ∧ t.vm? = some v' ∧
      v.OnlyResult v' dr (v.pc + sext off)

/-- R114: ST. -/
def Obligations.StorePcRelative : Prop :=
  (∀ w : Word, w &&& 0xF000#16 = 0x3000#16 → decode w = .st (regAt w 11 9) (BitVec.ofNat 9 (bitsAt w 8 0))) ∧
  ∀ (s : State) (v : Vm) (sr : RegIdx) (off : BitVec 9), s.vm? = some v →
    ∃ t v', exec (.st sr off) s = .next t ∧ s.SameBut t s.cur ∧ t.vm? = some v' ∧
      v.OnlyStored v' (v.pc + sext off) (v.reg sr)

/-- R115: STI, the pointer read at `a` with MemRead's side effect, then a plain store at the pointer. -/
def Obligations.StoreIndirect : Prop :=
  (∀ w : Word, w &&& 0xF000#16 = 0xB000#16 → decode w = .sti (regAt w 11 9) (BitVec.ofNat 9 (bitsAt w 8 0))) ∧
  ∀ (s : State) (v : Vm) (sr : RegIdx) (off : BitVec 9) (a : Word), s.vm? = some v → a = v.pc + sext off →
    ∃ t v', exec (.sti sr off) s = .next t ∧ s.SameBut t s.cur ∧ t.vm? = some v' ∧
      (v.afterRead a).OnlyStored v' (v.memRead a) (v.reg sr) ∧
      v.SameRegs v' ∧ v'.flags = v.flags ∧ v'.pc = v.pc ∧ v'.run = v.run ∧ v.SameBlocked v' ∧
      (a ≠ kbsr → v.OnlyStored v' (v.memRead a) (v.reg sr))

/-- R116: STR. -/
def Obligations.StoreBaseOffset : Prop :=
  (∀ w : Word, w &&& 0xF000#16 = 0x7000#16 →
    decode w = .str (regAt w 11 9) (regAt w 8 6) (BitVec.ofNat 6 (bitsAt w 5 0))) ∧
  ∀ (s : State) (v : Vm) (sr base : RegIdx) (off : BitVec 6), s.vm? = some v →
    ∃ t v', exec (.str sr base off) s = .next t ∧ s.SameBut t s.cur ∧ t.vm? = some v' ∧
      v.OnlyStored v' (v.reg base + sext off) (v.reg sr)

/-! ## Control transfer (42_control.md) -/

/-- R130: BR. Condition 000 always branches; else a shared set bit does. -/
def Obligations.ConditionalBranch : Prop :=
  (∀ w : Word, w &&& 0xF000#16 = 0x0000#16 →
    decode w = .br (BitVec.ofNat 3 (bitsAt w 11 9)) (BitVec.ofNat 9 (bitsAt w 8 0))) ∧
  ∀ (s : State) (v : Vm) (cond : CondBits) (off : BitVec 9), s.vm? = some v →
    ∃ t v', exec (.br cond off) s = .next t ∧ s.SameBut t s.cur ∧ t.vm? = some v' ∧
      v.OnlyPc v' (if cond = 0b000#3 ∨ cond &&& v.flags ≠ 0b000#3 then v.pc + sext off else v.pc)

/-- R131: JMP (RET is JMP R7). -/
def Obligations.JumpThroughRegister : Prop :=
  (∀ w : Word, w &&& 0xF000#16 = 0xC000#16 → decode w = .jmp (regAt w 8 6)) ∧
  ∀ (s : State) (v : Vm) (base : RegIdx), s.vm? = some v →
    ∃ t v', exec (.jmp base) s = .next t ∧ s.SameBut t s.cur ∧ t.vm? = some v' ∧ v.OnlyPc v' (v.reg base)

/-- R132: JSR. The flags stay, or with `JSR_SETS_FLAGS` = true follow R7. -/
def Obligations.JumpSubroutine : Prop :=
  (∀ w : Word, w &&& 0xF800#16 = 0x4800#16 → decode w = .jsr (BitVec.ofNat 11 (bitsAt w 10 0))) ∧
  ∀ (s : State) (v : Vm) (off : BitVec 11), s.vm? = some v →
    ∃ t v', exec (.jsr off) s = .next t ∧ s.SameBut t s.cur ∧ t.vm? = some v' ∧
      v'.reg 7 = v.pc ∧ v'.pc = v.pc + sext off ∧
      v'.flags = (if s.cfg.jsrSetsFlags then flagsOf v.pc else v.flags) ∧
      v.SameRegsBut v' 7 ∧ v.SameMemory v' ∧ v.SameControl v'

/-- R133: JSRR. BaseR is read after R7 is written, so JSRR R7 goes on at the next word. -/
def Obligations.JumpSubroutineRegister : Prop :=
  (∀ w : Word, w &&& 0xF800#16 = 0x4000#16 → decode w = .jsrr (regAt w 8 6)) ∧
  ∀ (s : State) (v : Vm) (base : RegIdx), s.vm? = some v →
    ∃ t v', exec (.jsrr base) s = .next t ∧ s.SameBut t s.cur ∧ t.vm? = some v' ∧
      v'.reg 7 = v.pc ∧ v'.pc = (if base = 7 then v.pc else v.reg base) ∧
      v'.flags = (if s.cfg.jsrSetsFlags then flagsOf v.pc else v.flags) ∧
      v.SameRegsBut v' 7 ∧ v.SameMemory v' ∧ v.SameControl v'

/-! ## TRAP, RTI, RES (43_trap_and_reserved.md) -/

/-- R140: every TRAP word, the words of the six services included, enters Trapped(instr[7:0]) and changes nothing else
but, with `TRAP_WRITES_R7` = true, R7. The first clause is about words, the second about each instruction. -/
def Obligations.TrapEntersTrapped : Prop :=
  (∀ w : Word, w &&& 0xF000#16 = 0xF000#16 →
    newRunState (decode w) = some (.trapped (BitVec.ofNat 8 (bitsAt w 7 0)))) ∧
  ∀ (s : State) (v : Vm) (i : Instr) (n : BitVec 8), s.vm? = some v →
    i = .trap n ∨ i = .getc ∧ n = 0x20#8 ∨ i = .out ∧ n = 0x21#8 ∨ i = .puts ∧ n = 0x22#8 ∨ i = .in_ ∧ n = 0x23#8 ∨
      i = .putsp ∧ n = 0x24#8 ∨ i = .halt ∧ n = 0x25#8 →
    ∃ t v', exec i s = .next t ∧ s.SameBut t s.cur ∧ t.vm? = some v' ∧
      v'.run = .trapped n ∧ v'.pc = v.pc ∧ v'.reg 7 = (if s.cfg.trapWritesR7 then v.pc else v.reg 7) ∧
      v.SameRegsBut v' 7 ∧ v'.flags = v.flags ∧ v.SameMemory v' ∧ v'.pending = v.pending ∧ v.SameBlocked v'

/-- R141, R142: RTI and the reserved opcode, whatever the ignored bits hold, stop the VM and change nothing else. -/
def Obligations.RtiAndReservedStopTheVm : Prop :=
  (∀ w : Word, w &&& 0xF000#16 = 0x8000#16 → decode w = .rti) ∧
  (∀ w : Word, w &&& 0xF000#16 = 0xD000#16 → decode w = .res) ∧
  ∀ (s : State) (v : Vm) (i : Instr), s.vm? = some v → i = .rti ∨ i = .res →
    ∃ t v', exec i s = .next t ∧ s.SameBut t s.cur ∧ t.vm? = some v' ∧
      v'.run = .stopped ∧ v'.pc = v.pc ∧ v.SameRegs v' ∧ v'.flags = v.flags ∧ v.SameMemory v' ∧
      v'.pending = v.pending ∧ v.SameBlocked v'

/-! ## The trap services (44_trap_services.md)

Each is about `Trap(n)` on the VM at an index `i`, in any state but Stopped. -/

/-- R151: GETC. With a key pending R0 is its low byte, zero-extended; with none, R0 is any value, so nothing is said of
it. -/
def Obligations.GetcTakesTheKey : Prop :=
  ∀ (s : State) (i : Nat) (v : Vm), s.vmAt i = some v → v.run ≠ .stopped →
    ∃ t v', trapAt i 0x20#8 s = .next t ∧ s.SameButServed t i ∧ t.vmAt i = some v' ∧
      v.ServiceFrame v' .running ∧ v'.pending = none ∧ t.output = s.output ∧
      v'.flags = (if s.cfg.trapSetsFlags then flagsOf (v'.reg 0) else v.flags) ∧
      ∀ k : Word, v.pending = some k → v'.reg 0 = BitVec.ofNat 16 (bitsAt k 7 0)

/-- R152: OUT. -/
def Obligations.OutEmitsLowByte : Prop :=
  ∀ (s : State) (i : Nat) (v : Vm), s.vmAt i = some v → v.run ≠ .stopped →
    ∃ t v', trapAt i 0x21#8 s = .next t ∧ s.SameButServed t i ∧ t.vmAt i = some v' ∧
      v.ServiceFrame v' .running ∧ v'.reg 0 = v.reg 0 ∧ v'.pending = v.pending ∧ v'.flags = v.flags ∧
      t.output = s.output ++ [.byte (BitVec.ofNat 8 (bitsAt (v.reg 0) 7 0)), .flush]

/-- `words` is the string at `a`: nonzero words at consecutive addresses modulo 2^16, and then a zero word (R153). -/
def StringAt (v : Vm) (a : Word) (words : List Word) : Prop :=
  (∀ (k : Nat) (h : k < words.length), v.mem.read (a + BitVec.ofNat 16 k) = words[k] ∧ words[k] ≠ 0#16) ∧
  v.mem.read (a + BitVec.ofNat 16 words.length) = 0#16

/-- R153: PUTS emits the low byte of each word of the string at R0, then flushes; over a memory with no zero word it
never completes. -/
def Obligations.PutsWritesTheString : Prop :=
  (∀ (s : State) (i : Nat) (v : Vm) (words : List Word), s.vmAt i = some v → v.run ≠ .stopped →
    StringAt v (v.reg 0) words →
    ∃ t v', trapAt i 0x22#8 s = .next t ∧ s.SameButServed t i ∧ t.vmAt i = some v' ∧
      v.ServiceFrame v' .running ∧ v'.reg 0 = v.reg 0 ∧ v'.pending = v.pending ∧ v'.flags = v.flags ∧
      t.output = s.output ++ (words.map fun w => .byte (BitVec.ofNat 8 (bitsAt w 7 0))) ++ [.flush]) ∧
  ∀ (s : State) (i : Nat) (v : Vm), s.vmAt i = some v → v.run ≠ .stopped → (∀ a : Word, v.mem.read a ≠ 0#16) →
    trapAt i 0x22#8 s = .fault .serviceNeverCompletes

/-- R154: IN, the prompt, then the key's echo, then the flush; with no key pending the echoed key is any value. -/
def Obligations.InPromptsAndEchoes : Prop :=
  ∀ (s : State) (i : Nat) (v : Vm), s.vmAt i = some v → v.run ≠ .stopped →
    ∃ t v', trapAt i 0x23#8 s = .next t ∧ s.SameButServed t i ∧ t.vmAt i = some v' ∧
      v.ServiceFrame v' .running ∧ v'.pending = none ∧
      v'.flags = (if s.cfg.trapSetsFlags then flagsOf (v'.reg 0) else v.flags) ∧
      t.output = s.output ++ s.cfg.inPrompt.map .byte ++ [.byte (BitVec.ofNat 8 (bitsAt (v'.reg 0) 7 0)), .flush] ∧
      ∀ k : Word, v.pending = some k → v'.reg 0 = BitVec.ofNat 16 (bitsAt k 7 0)

/-- R155: PUTSP emits the low byte of each word always and then its high byte if nonzero, then flushes; over a memory
with no zero word it never completes. -/
def Obligations.PutspWritesPackedBytes : Prop :=
  (∀ (s : State) (i : Nat) (v : Vm) (words : List Word), s.vmAt i = some v → v.run ≠ .stopped →
    StringAt v (v.reg 0) words →
    ∃ t v', trapAt i 0x24#8 s = .next t ∧ s.SameButServed t i ∧ t.vmAt i = some v' ∧
      v.ServiceFrame v' .running ∧ v'.reg 0 = v.reg 0 ∧ v'.pending = v.pending ∧ v'.flags = v.flags ∧
      t.output = s.output ++ (words.flatMap fun w => .byte (BitVec.ofNat 8 (bitsAt w 7 0)) ::
        if bitsAt w 15 8 = 0 then [] else [.byte (BitVec.ofNat 8 (bitsAt w 15 8))]) ++ [.flush]) ∧
  ∀ (s : State) (i : Nat) (v : Vm), s.vmAt i = some v → v.run ≠ .stopped → (∀ a : Word, v.mem.read a ≠ 0#16) →
    trapAt i 0x24#8 s = .fault .serviceNeverCompletes

/-- R156: HALT emits the notice, flushes, and stops the VM; registers, pc, flags and memory stay. -/
def Obligations.HaltStopsTheVm : Prop :=
  ∀ (s : State) (i : Nat) (v : Vm), s.vmAt i = some v → v.run ≠ .stopped →
    ∃ t v', trapAt i 0x25#8 s = .next t ∧ s.SameButServed t i ∧ t.vmAt i = some v' ∧
      v.ServiceFrame v' .stopped ∧ v'.reg 0 = v.reg 0 ∧ v'.pending = v.pending ∧ v'.flags = v.flags ∧
      t.output = s.output ++ s.cfg.haltNotice.map .byte ++ [.flush]

/-- R157: any other trap number resumes Running and does nothing else, and no byte or flush is emitted. -/
def Obligations.UnknownTrapResumes : Prop :=
  ∀ (s : State) (i : Nat) (v : Vm) (n : Byte), s.vmAt i = some v → v.run ≠ .stopped →
    n.toNat < 0x20 ∨ 0x25 < n.toNat →
    ∃ t v', trapAt i n s = .next t ∧ s.SameButServed t i ∧ t.vmAt i = some v' ∧
      v.ServiceFrame v' .running ∧ v'.reg 0 = v.reg 0 ∧ v'.pending = v.pending ∧ v'.flags = v.flags ∧
      t.output = s.output

/-- R150, R193, R214: `Trap` by the host on a Stopped VM, whatever the number, leaves the VM and the output as they are
and returns Stopped; on any VM only the low byte of the number counts; on a Running or Trapped VM it is the service of
that byte, and the host gets the execution state after it; and the boot loop on a VM Trapped on n performs the same
service of n. What the service does is in the seven statements above. -/
def Obligations.TrapOnStoppedIsNoOperation : Prop :=
  (∀ (s : State) (i : Nat) (v : Vm) (n : Word), s.vmAt i = some v → v.run = .stopped →
    ∃ t, hostTrap i n s = .next t ∧ t.vmAt i = some v ∧ t.output = s.output ∧
      s.SameBut { t with replies := s.replies } i ∧ t.replies = s.replies ++ [.state .stopped]) ∧
  (∀ (s : State) (i : Nat) (n m : Word), bitsAt n 7 0 = bitsAt m 7 0 → hostTrap i n s = hostTrap i m s) ∧
  (∀ (s : State) (i : Nat) (v : Vm) (n : Word), s.vmAt i = some v → v.run ≠ .stopped →
    (∀ (t : State) (v' : Vm), trapAt i (BitVec.ofNat 8 (bitsAt n 7 0)) s = .next t → t.vmAt i = some v' →
      hostCall (.trap i n) s = .next { t with replies := t.replies ++ [.state v'.run] }) ∧
    (∀ r : Fault, trapAt i (BitVec.ofNat 8 (bitsAt n 7 0)) s = .fault r → hostCall (.trap i n) s = .fault r)) ∧
  ∀ (s : State) (v : Vm) (n : BitVec 8), s.activity = .drive → s.vm? = some v → v.run = .trapped n →
    step s = trapAt s.cur n s

/-! ## Memory and the keyboard (20_memory.md) -/

/-- R44: a read at the keyboard-status address latches and consumes a pending key, or clears the status register; a
second read with no key between returns 0. -/
def Obligations.KeyboardStatusRead : Prop :=
  ∀ v : Vm, v.mem.wf = true →
    (∀ k : Word, v.pending = some k →
      v.memRead 0xFE00#16 = 0x8000#16 ∧ (v.afterRead 0xFE00#16).mem.read 0xFE00#16 = 0x8000#16 ∧
      (v.afterRead 0xFE00#16).mem.read 0xFE02#16 = k) ∧
    (v.pending = none →
      v.memRead 0xFE00#16 = 0x0000#16 ∧ (v.afterRead 0xFE00#16).mem.read 0xFE00#16 = 0x0000#16 ∧
      (v.afterRead 0xFE00#16).mem.read 0xFE02#16 = v.mem.read 0xFE02#16) ∧
    (v.afterRead 0xFE00#16).pending = none ∧
    (v.afterRead 0xFE00#16).memRead 0xFE00#16 = 0x0000#16 ∧
    (∀ a : Word, a ≠ 0xFE00#16 → a ≠ 0xFE02#16 → (v.afterRead 0xFE00#16).mem.read a = v.mem.read a) ∧
    v.SameRegs (v.afterRead 0xFE00#16) ∧ (v.afterRead 0xFE00#16).pc = v.pc ∧
    (v.afterRead 0xFE00#16).flags = v.flags ∧ (v.afterRead 0xFE00#16).run = v.run ∧
    v.SameBlocked (v.afterRead 0xFE00#16) ∧
    ∀ a : Word, a ≠ 0xFE00#16 → v.memRead a = v.mem.read a ∧ v.afterRead a = v

/-- R46, with R47 and R56 for the word just stored: a write stores the word at every address and has no other effect; RawRead returns it with no effect;
a fetch from that address gets it, but at 0xFE00, where the fetch reads the status register (R48). -/
def Obligations.StoreThenReadAndFetch : Prop :=
  ∀ (v : Vm) (a w : Word), v.mem.wf = true →
    (v.memWrite a w).mem.read a = w ∧ (v.memWrite a w).rawRead a = w ∧
    v.SameMemoryBut (v.memWrite a w) a ∧ v.SameRegs (v.memWrite a w) ∧ (v.memWrite a w).flags = v.flags ∧
    (v.memWrite a w).pc = v.pc ∧ v.SameControl (v.memWrite a w) ∧
    (a ≠ 0xFE00#16 → ({ v.memWrite a w with pc := a }).fetchedWord = w)

/-- Equal contents are equal data: two memories in canonical form that read alike everywhere are the same. The form is
the model's own (log 2). -/
def Obligations.CanonicalMemoryIsUnique : Prop :=
  ∀ m m' : Memory, m.wf = true → m'.wf = true → (∀ a : Word, m.read a = m'.read a) → m = m'

/-- Load by the host (R53) writes the image's words from its origin on and changes nothing else; a range past 0xFFFF is
refused. R193 has every image loaded before the first round; that a later Load has this effect too is the model's choice
(log 26). -/
def Obligations.LoadWritesTheImage : Prop :=
  (∀ (s : State) (i : Nat) (v : Vm) (img : Image), s.vmAt i = some v → v.mem.wf = true →
    img.origin.toNat + img.words.length ≤ 65536 →
    ∃ t v', hostLoad i img s = .next t ∧ s.SameBut t i ∧ t.vmAt i = some v' ∧
      (∀ (k : Nat) (h : k < img.words.length), v'.mem.read (img.origin + BitVec.ofNat 16 k) = img.words[k]) ∧
      (∀ a : Word, a.toNat < img.origin.toNat ∨ img.origin.toNat + img.words.length ≤ a.toNat →
        v'.mem.read a = v.mem.read a) ∧
      v.SameRegs v' ∧ v'.pc = v.pc ∧ v'.flags = v.flags ∧ v.SameControl v') ∧
  ∀ (s : State) (i : Nat) (v : Vm) (img : Image), s.vmAt i = some v →
    65536 < img.origin.toNat + img.words.length → hostLoad i img s = .refused .loadOutOfRange

/-! ## Flags and sign extension -/

/-- R27 and R7, the flag-update and sign-extension datapath (R2): the flag update, and that exactly one flag is set;
sign extension ORs in all higher bits when the field's top bit is set, and truncation gives the field back. -/
def Obligations.FlagUpdateAndSignExtension : Prop :=
  (∀ (v : Vm) (w : Word),
    (v.setcc w).flags = (if w = 0x0000#16 then 0b010#3 else if w.getLsbD 15 then 0b100#3 else 0b001#3) ∧
    ((v.setcc w).flags = 0b100#3 ∨ (v.setcc w).flags = 0b010#3 ∨ (v.setcc w).flags = 0b001#3)) ∧
  ∀ n : Nat, n = 5 ∨ n = 6 ∨ n = 9 ∨ n = 11 → ∀ f : BitVec n,
    sext f = (if f.getLsbD (n - 1) then f.setWidth 16 ||| (0xFFFF#16 <<< n) else f.setWidth 16) ∧
    (sext f).setWidth n = f

/-! ## Decode and encode (30_encoding.md) -/

/-- Words written out from the formats of R64 decode to the instructions they stand for; the canonical words of 95's
examples. -/
def Obligations.SampleWordsDecode : Prop :=
  decode 0b0001010000000001#16 = .addReg 2 0 1 ∧ decode 0b0101000000110000#16 = .andImm 0 0 0b10000#5 ∧
  decode 0b0110010001111111#16 = .ldr 2 1 0b111111#6 ∧ decode 0b1011001000000011#16 = .sti 1 3#9 ∧
  decode 0b0000001111111101#16 = .br 0b001#3 0b111111101#9 ∧ decode 0b0100100000000010#16 = .jsr 2#11 ∧
  decode 0b1111000000100101#16 = .halt ∧ decode 0b1111000000000000#16 = .trap 0#8

/-- Decoding the encoding of a well-formed instruction gives it back, for every instruction and every operand (R63, R64;
the encoder is the model's own). -/
def Obligations.DecodeOfEncode : Prop := ∀ i : Instr, i.wellFormed = true → decode (encode i) = i

/-- R69, R64: every word decodes to a well-formed instruction; the word has the fixed bits of that instruction's row of
the opcode table, and agrees with that instruction's own word on every bit the row does not ignore. -/
def Obligations.DecodeIsExactOnEveryWord : Prop :=
  ∀ w : Word, (decode w).wellFormed = true ∧ w &&& rowMask (decode w) = rowMatch (decode w) ∧
    w &&& ~~~ ignoredBits (decode w) = encode (decode w) &&& ~~~ ignoredBits (decode w)

/-- R67: bits the row marks as ignored do not matter. -/
def Obligations.IgnoredBitsDoNotMatter : Prop :=
  ∀ w w' : Word, w &&& ~~~ ignoredBits (decode w) = w' &&& ~~~ ignoredBits (decode w) → decode w' = decode w

/-! ## The step -/

/-- R73, R77: while the engine's loop is in progress with budget left and VM `cur` is Running, a step is exec of the
decoded word at pc, on the state after the fetch, and then one tick of the budget is spent. With no operation in progress
a step performs the host's next call (R193), and with no call left it changes nothing (log 9). -/
def Obligations.StepRunsDecodedInstruction : Prop :=
  (∀ (s s1 : State) (v : Vm), s.vm? = some v → v.run = .running →
    s1 = s.onVm (fun u => { u.afterRead u.pc with pc := u.pc + 1#16 }) →
    (s.activity = .drive → step s = exec (decode (v.memRead v.pc)) s1) ∧
    (s.activity = .runFor none → step s = exec (decode (v.memRead v.pc)) s1) ∧
    (∀ b : Nat, s.activity = .runFor (some (b + 1)) →
      step s = andThen (exec (decode (v.memRead v.pc)) s1) fun t => { t with activity := .runFor (some b) }) ∧
    (∀ (b : Nat) (c : Caller), s.activity = .tick (.run (b + 1)) c →
      step s = andThen (exec (decode (v.memRead v.pc)) s1) fun t => { t with activity := .tick (.run b) c })) ∧
  ∀ s : State, s.activity = .idle →
    (∀ (c : HostCall) (rest : List HostCall), s.script = c :: rest → step s = hostCall c { s with script := rest }) ∧
    (s.script = [] → step s = .next s)

/-- R73, R75, R76: the host's RunFor begins with an INFINITE budget for an absent or negative count and with the count
itself otherwise; on a VM that is not Running, or with budget 0, it executes nothing and returns the state. -/
def Obligations.RunForReturnsTheState : Prop :=
  (∀ (s : State) (i : Nat) (v : Vm), s.vmAt i = some v →
    hostCall (.runFor i none) s = .next { s with cur := i, activity := .runFor none } ∧
    (∀ ticks : Int, ticks < 0 →
      hostCall (.runFor i (some ticks)) s = .next { s with cur := i, activity := .runFor none }) ∧
    (∀ k : Nat, hostCall (.runFor i (some (k : Int))) s = .next { s with cur := i, activity := .runFor (some k) })) ∧
  ∀ (s : State) (v : Vm) (b : Option Nat), s.activity = .runFor b → s.vm? = some v → v.run ≠ .running ∨ b = some 0 →
    step s = .next { s with activity := .idle, replies := s.replies ++ [.state v.run] }

/-- R75: RunFor with a budget of k executes at most k instructions and then returns: for some m ≤ k, m steps each spend
one tick, and the next step hands the execution state to the host. -/
def Obligations.RunForReturnsWithinBudget : Prop :=
  ∀ (k : Nat) (s : State), s.activity = .runFor (some k) → s.vm?.isSome = true →
    ∃ (m : Nat) (t : State) (v : Vm), m ≤ k ∧ Sys2Proof.core.run m s = .next t ∧
      t.activity = .runFor (some (k - m)) ∧ t.vm? = some v ∧
      step t = .next { t with activity := .idle, replies := t.replies ++ [.state v.run] }

/-- R39: an operation in progress on a VM, an instruction, a service or a part of a Tick, leaves every other VM as it is. -/
def Obligations.OtherVmsAreUntouched : Prop :=
  ∀ s t : State, step s = .next t → s.activity.onCur = true → ∀ j : Nat, j ≠ s.cur → t.vmAt j = s.vmAt j

/-- R39: what an instruction does to its VM depends on that VM and the parameters alone, not on any other VM, on the
scheduler, the streams or the host. -/
def Obligations.InstructionsSeeTheirVmOnly : Prop :=
  ∀ (s1 s2 t1 t2 : State), s1.engineTurn = true → s2.engineTurn = true → s1.cfg = s2.cfg → s1.vm? = s2.vm? →
    step s1 = .next t1 → step s2 = .next t2 →
    t1.vmAt s1.cur = t2.vmAt s2.cur ∧ t1.output = s1.output ∧ t2.output = s2.output

/-- R9, R159: no step changes the parameters or takes back output: it appends. -/
def Obligations.ParametersFixedAndOutputAppended : Prop :=
  ∀ s t : State, step s = .next t → t.cfg = s.cfg ∧ ∃ events : List OutEvent, t.output = s.output ++ events

/-- R28: with the flag parameters at their default false, the flags of a VM change only by a flag-updating instruction
of that VM or by its Reset. -/
def Obligations.OnlyFlagUpdatersWriteFlags : Prop :=
  ∀ (s t : State) (j : Nat) (v v' : Vm), step s = .next t → s.vmAt j = some v → t.vmAt j = some v' →
    s.cfg.jsrSetsFlags = false → s.cfg.trapSetsFlags = false → v'.flags ≠ v.flags →
    (s.engineTurn = true ∧ s.cur = j ∧ updatesFlags (decode (v.memRead v.pc)) = true) ∨ s.HostCalls (.reset j)

/-- R22: with `TRAP_WRITES_R7` = false, a register of a VM changes only by an instruction that names it as its
destination (R7 for JSR and JSRR), by GETC or IN (R0), or by Reset. -/
def Obligations.OnlyListedWritersWriteRegisters : Prop :=
  ∀ (s t : State) (j : Nat) (v v' : Vm) (r : RegIdx), step s = .next t → s.vmAt j = some v → t.vmAt j = some v' →
    s.cfg.trapWritesR7 = false → v'.reg r ≠ v.reg r →
    (s.engineTurn = true ∧ s.cur = j ∧ writesReg (decode (v.memRead v.pc)) = some r) ∨
    (r = 0 ∧ (s.Serves j v 0x20#8 ∨ s.Serves j v 0x23#8)) ∨ s.HostCalls (.reset j)

/-- A word of a VM's memory outside the keyboard registers changes only by a store of that VM's instruction, at the
address that instruction computes, or by Load. -/
def Obligations.OnlyStoresAndLoadWriteMemory : Prop :=
  ∀ (s t : State) (j : Nat) (v v' : Vm) (a : Word), step s = .next t → s.vmAt j = some v → t.vmAt j = some v' →
    a ≠ 0xFE00#16 → a ≠ 0xFE02#16 → v'.mem.read a ≠ v.mem.read a →
    (s.engineTurn = true ∧ s.cur = j ∧ storesTo v.afterFetch (decode (v.memRead v.pc)) = some a) ∨
    ∃ img, s.HostCalls (.load j img)

/-- The execution state of a VM changes only by TRAP, RTI or RES, by a service, or by Reset (R32, R171). -/
def Obligations.OnlyListedEventsChangeRunState : Prop :=
  ∀ (s t : State) (j : Nat) (v v' : Vm), step s = .next t → s.vmAt j = some v → t.vmAt j = some v' → v'.run ≠ v.run →
    (s.engineTurn = true ∧ s.cur = j ∧ newRunState (decode (v.memRead v.pc)) = some v'.run) ∨
    ((∃ n, s.Serves j v n) ∧ (v'.run = .running ∨ v'.run = .stopped)) ∨
    (s.HostCalls (.reset j) ∧ v'.run = .running)

/-- R33, R185, R191, R192: the host's SetKey on a VM in any execution state makes the key pending, over any key there,
and changes nothing else; and a key becomes pending at a VM only by SetKey on it or by a round's delivery to it as console
owner. -/
def Obligations.KeysReachOnlyTheOwner : Prop :=
  (∀ (s : State) (i : Nat) (v : Vm) (k : Word), s.vmAt i = some v →
    ∃ t, hostCall (.setKey i k) s = .next t ∧ s.SameBut t i ∧ t.vmAt i = some { v with pending := some k }) ∧
  ∀ (s t : State) (j : Nat) (v v' : Vm) (k : Word), step s = .next t → s.vmAt j = some v → t.vmAt j = some v' →
    v'.pending = some k → v.pending ≠ some k →
    s.HostCalls (.setKey j k) ∨
    (s.RoundBegins ∧ s.owner = some j ∧ s.keys.head? = some (some k) ∧ k ≠ s.cfg.escapeKey)

/-- Stopped is absorbing (R32, R76, R150): but for its Reset, a Stopped VM stays Stopped with its registers, flags and
pc as they are, through every step. -/
def Obligations.StoppedIsAbsorbing : Prop :=
  ∀ (s t : State) (j : Nat) (v : Vm), step s = .next t → s.vmAt j = some v → v.run = .stopped →
    ¬ s.HostCalls (.reset j) →
    ∃ v', t.vmAt j = some v' ∧ v'.run = .stopped ∧ v.SameRegs v' ∧ v'.flags = v.flags ∧ v'.pc = v.pc

/-! ## Reset and construction (70_reset_and_hazards.md) -/

/-- R211, R212, R213: the host's Reset on a VM in any state. -/
def Obligations.ResetSetsAndKeeps : Prop :=
  ∀ (s : State) (i : Nat) (v : Vm), s.vmAt i = some v →
    ∃ t v', hostCall (.reset i) s = .next t ∧ s.SameBut t i ∧ t.vmAt i = some v' ∧
      v'.pc = 0x3000#16 ∧ (∀ r : RegIdx, v'.reg r = 0x0000#16) ∧ v'.flags = 0b000#3 ∧ v'.run = .running ∧
      v'.mem = v.mem ∧ v'.pending = v.pending ∧ v'.blockedInput = v.blockedInput ∧ v'.blockedOutput = v.blockedOutput ∧
      ∃ u, hostCall (.reset i) t = .next u ∧ u.vmAt i = some v'

/-- AddVm (R182) with every list of images: the VM joins at the next index, constructed (R210: no key, not blocked,
memory `init_mem`), loaded image by image, and Reset; owner is 0 from the first VM on and the running-count goes up by one
(R36); refused when an image does not fit, and once rounds have begun. The refusals are the model's form of a call outside
the contract, and a loader with no image, or a collection with bare VMs, is accepted (log 15, log 16, log 26). -/
def Obligations.AddVmConstructsLoadsAndResets : Prop :=
  (∀ (s : State) (images : List Image), s.started = false → s.cfg.initMem.wf = true →
    (∀ img ∈ images, img.origin.toNat + img.words.length ≤ 65536) →
    ∃ t v, hostCall (.addVm images) s = .next t ∧ t.vms = s.vms ++ [{ vm := v, counted := false, joined := true }] ∧
      v.pc = 0x3000#16 ∧ (∀ r : RegIdx, v.reg r = 0x0000#16) ∧ v.flags = 0b000#3 ∧ v.run = .running ∧
      v.pending = none ∧ v.blockedInput = false ∧ v.blockedOutput = false ∧
      (∀ a : Word, v.mem.read a = wordAfterLoads images a (s.cfg.initMem.read a)) ∧
      t.owner = some (s.owner.getD 0) ∧ t.running = s.running + 1 ∧ t.cfg = s.cfg ∧ t.output = s.output ∧
      t.keys = s.keys ∧ t.script = s.script ∧ t.replies = s.replies) ∧
  (∀ (s : State) (images : List Image), s.started = false →
    (∃ img ∈ images, 65536 < img.origin.toNat + img.words.length) →
    hostCall (.addVm images) s = .refused .loadOutOfRange) ∧
  ∀ (s : State) (images : List Image), s.started = true →
    hostCall (.addVm images) s = .refused .addVmAfterFirstRound

/-- R38: the inspections, and that the trap-number accessor has a value only while Trapped. -/
def Obligations.InspectionAnswers : Prop :=
  ∀ (s : State) (i : Nat) (v : Vm), s.vmAt i = some v →
    hostInspect i .isRunning s = .next (s.reply (.truth (decide (v.run = .running)))) ∧
    hostInspect i .isStopped s = .next (s.reply (.truth (decide (v.run = .stopped)))) ∧
    (∀ n : BitVec 8, v.run = .trapped n →
      hostInspect i .isTrapped s = .next (s.reply (.truth true)) ∧
      hostInspect i .trapNumber s = .next (s.reply (.trapNumber n))) ∧
    ((∀ n : BitVec 8, v.run ≠ .trapped n) →
      hostInspect i .isTrapped s = .next (s.reply (.truth false)) ∧
      hostInspect i .trapNumber s = .refused .noTrapNumber)

/-! ## The run/block machine and the scheduler (60_exceptions.md) -/

/-- R177, steps 1, 2 and 4: a Tick of a Stopped VM returns false, one of a blocked Trapped VM returns true, and neither
changes a VM; an unblocked Trapped VM is serviced on its own trap number and then, as a Running one at once, enters the
RunFor of TICK_QUOTA. The host's Tick begins at step 1 (log 17). -/
def Obligations.TickServicesOrWaits : Prop :=
  (∀ (s : State) (i : Nat) (v : Vm), s.vmAt i = some v →
    hostCall (.tick i) s = .next { s with cur := i, activity := .tick .service .host }) ∧
  ∀ (s : State) (c : Caller) (v : Vm), s.activity = .tick .service c → s.vm? = some v →
    (v.run = .stopped → step s = .next (s.tickReturn c false)) ∧
    (v.run = .running → step s = .next { s with activity := .tick (.run s.cfg.tickQuota) c }) ∧
    (∀ n : BitVec 8, v.run = .trapped n → v.blockedInput = true ∨ v.blockedOutput = true →
      step s = .next (s.tickReturn c true)) ∧
    (∀ n : BitVec 8, v.run = .trapped n → v.blockedInput = false → v.blockedOutput = false →
      step s = andThen (trapAt s.cur n s) fun t => { t with activity := .tick (.run t.cfg.tickQuota) c })

/-- R177 steps 3 and 4, R178, R179, R181: when the RunFor of a Tick has returned, whoever called the Tick, a Trapped VM
gets the blocked bit of its trap's class and no other, nothing else changes, and the Tick returns to its caller whether the
VM is not Stopped. The return to the host is said here: that it counts nothing, even when it is the VM's first to report
Stopped, is the model's choice (log 17). The return to a round is said in `RunningCountAndTermination`. -/
def Obligations.TickBlocksAndReports : Prop :=
  (∀ (s : State) (b : Nat) (c : Caller) (v : Vm), s.activity = .tick (.run b) c → s.vm? = some v →
    v.run ≠ .running ∨ b = 0 →
    ∃ u, step s = .next (u.tickReturn c (decide (v.run ≠ .stopped))) ∧ s.SameBut u s.cur ∧
      u.vm? = some { v with
        blockedInput := v.blockedInput || decide (v.run = .trapped 0x20#8 ∨ v.run = .trapped 0x23#8)
        blockedOutput := v.blockedOutput ||
          decide (v.run = .trapped 0x21#8 ∨ v.run = .trapped 0x22#8 ∨ v.run = .trapped 0x24#8) }) ∧
  ∀ (u : State) (alive : Bool), u.tickReturn .host alive =
    { u with activity := .idle, replies := u.replies ++ [.stillRunning alive] }

/-- A round that polls the Escape key (R184), in the scheduler's loop or called alone (log 17), moves the ownership to the
next VM modulo the count, delivers no key to any VM, clears no blocked bit but the new owner's output bit (R186), and leaves
the rest as `RoundStarted` says. CycleOwner has the same effect on the owner; R184 allows it only between rounds, and that it
has this effect before the first round too is the model's choice (log 24), as is that the count includes bare VMs (log 16)
and that with no owner it changes nothing (log 25). -/
def Obligations.EscapeCyclesTheOwner : Prop :=
  (∀ (s : State) (loop : Bool) (o : Nat), s.RoundRuns loop → s.owner = some o → o < s.vms.length →
    s.keys.head? = some (some s.cfg.escapeKey) →
    ∃ t, step s = .next t ∧ s.RoundStarted t loop ∧ t.owner = some ((o + 1) % s.vms.length) ∧
      ∀ (j : Nat) (v : Vm), s.vmAt j = some v →
        t.vmAt j = some (if j = (o + 1) % s.vms.length then { v with blockedOutput := false } else v)) ∧
  (∀ (s : State) (o : Nat), s.owner = some o →
    hostCall .cycleOwner s = .next { s with owner := some ((o + 1) % s.vms.length) }) ∧
  ∀ s : State, s.owner = none → hostCall .cycleOwner s = .next s

/-- R185, R186: a round, in the scheduler's loop or called alone (log 17), that polls another key gives it to the owner
alone, overwriting a pending one, clears the owner's input bit and output bit, and keeps the owner and the rest as
`RoundStarted` says. -/
def Obligations.KeyIsDeliveredToTheOwner : Prop :=
  ∀ (s : State) (loop : Bool) (o : Nat) (k : Word), s.RoundRuns loop → s.owner = some o → o < s.vms.length →
    s.keys.head? = some (some k) → k ≠ s.cfg.escapeKey →
    ∃ t, step s = .next t ∧ s.RoundStarted t loop ∧ t.owner = some o ∧
      ∀ (j : Nat) (v : Vm), s.vmAt j = some v →
        t.vmAt j = some (if j = o then { v with pending := some k, blockedInput := false, blockedOutput := false } else v)

/-- R186, R190: a round, in the scheduler's loop or called alone (log 17), whose poll returns no key clears the owner's
output bit, changes no VM otherwise, and keeps the owner and the rest as `RoundStarted` says. A host with no polled result
left returns no key (log 9). -/
def Obligations.RoundClearsOwnersOutputBit : Prop :=
  ∀ (s : State) (loop : Bool) (o : Nat), s.RoundRuns loop → s.owner = some o → o < s.vms.length →
    s.keys.head? = some none ∨ s.keys = [] →
    ∃ t, step s = .next t ∧ s.RoundStarted t loop ∧ t.owner = some o ∧
      ∀ (j : Nat) (v : Vm), s.vmAt j = some v →
        t.vmAt j = some (if j = o then { v with blockedOutput := false } else v)

/-- R187, R188: in a round a VM whose Tick returns false is counted once, and every other Tick counts nothing; no VM, and
nothing else of the scheduler, the streams or the host changes; the round goes on with the next VM, or after the last back
to the scheduler's loop (a Round called alone ends, log 17). RunScheduler begins at the termination test, over VMs that
AddVm added, and closes the collection (the mark `started`, log 15); it keeps the running-count and the marks, also when
rounds have run before (log 28); over a collection with a bare VM it is refused, as a Round is (log 16). The loop ends when
the count is zero. -/
def Obligations.RunningCountAndTermination : Prop :=
  (∀ (s u : State) (slot : Slot) (loop alive : Bool), s.vms[s.cur]? = some slot →
    u = s.tickReturn (.round loop) alive →
    u.running = (if !alive && !slot.counted then s.running - 1 else s.running) ∧
    u.vms[s.cur]? = some { slot with counted := slot.counted || !alive } ∧
    u.vms.length = s.vms.length ∧ (∀ j : Nat, j ≠ s.cur → u.vms[j]? = s.vms[j]?) ∧
    u.owner = s.owner ∧ u.keys = s.keys ∧ u.output = s.output ∧ u.replies = s.replies ∧ u.script = s.script ∧
    u.cfg = s.cfg ∧ u.started = s.started ∧ u.draws = s.draws ∧
    (s.cur + 1 < s.vms.length → u.activity = .tick .service (.round loop) ∧ u.cur = s.cur + 1) ∧
    (s.vms.length ≤ s.cur + 1 → u.activity = (if loop then .schedule else .idle) ∧ u.cur = 0)) ∧
  (∀ s : State, (∀ slot ∈ s.vms, slot.joined = true) →
    hostCall .runScheduler s = .next { s with started := true, activity := .schedule }) ∧
  (∀ s : State, (∃ slot ∈ s.vms, slot.joined = false) →
    hostCall .runScheduler s = .refused .schedulerHoldsBareVm ∧ hostCall .round s = .refused .schedulerHoldsBareVm) ∧
  ∀ s : State, s.activity = .schedule → s.running = 0 → step s = .next { s with activity := .idle }

/-- R189, its first two consequences: a VM Trapped and blocked on output stays so through every step that does not make or
leave it the console owner, and one blocked on input through every step that does not deliver it a key as owner; unless the
host resets that VM, calls Trap on it, or drives it itself (log 14). -/
def Obligations.NonOwnerStaysBlockedOnOutput : Prop :=
  ∀ (s t : State) (j : Nat) (v : Vm) (n : BitVec 8), step s = .next t → s.vmAt j = some v → v.run = .trapped n →
    ¬ s.HostCalls (.reset j) → (∀ m : Word, ¬ s.HostCalls (.trap j m)) → ¬ (s.activity = .drive ∧ s.cur = j) →
    (v.blockedOutput = true → t.owner ≠ some j →
      ∃ v', t.vmAt j = some v' ∧ v'.run = .trapped n ∧ v'.blockedOutput = true ∧ v.SameRegs v' ∧ v'.flags = v.flags ∧
        v'.pc = v.pc) ∧
    (v.blockedInput = true →
      ¬ (s.RoundBegins ∧ s.owner = some j ∧ ∃ k : Word, s.keys.head? = some (some k) ∧ k ≠ s.cfg.escapeKey) →
      ∃ v', t.vmAt j = some v' ∧ v'.run = .trapped n ∧ v'.blockedInput = true ∧ v.SameRegs v' ∧ v'.flags = v.flags ∧
        v'.pc = v.pc)

/-! ## Invariants -/

/-- The invariant of the block holds after reset. Its reset values that the spec does not give are the model's choice
(log 2, log 7, log 9). -/
def Obligations.InvariantHoldsAtReset : Prop := State.reset.Inv

/-- The invariant of the block is kept by every step, from every state that meets it. -/
def Obligations.EveryStepKeepsTheInvariant : Prop :=
  ∀ s t : State, s.Inv → step s = .next t → t.Inv

/-- While the host leaves the run/block machines to Tick, a blocked bit belongs to the trap that set it, and so at most
one bit of a VM is 1 at any time (R34, R180; the premise on the host is the model's, log 14). -/
def Obligations.BlockedBitsExcludeEachOther : Prop :=
  (∀ s t : State, s.BlockInv → step s = .next t → t.BlockInv) ∧
  ∀ s : State, s.BlockInv → ∀ slot ∈ s.vms, ¬ (slot.vm.blockedInput = true ∧ slot.vm.blockedOutput = true)
end

