-- ==== Sys2Proof/Laws/Encoding.lean ====
section
/-! SUPPORT. Instruction words as numbers: what a concatenation and a field are, so that omega closes goals about them. -/

namespace Sys2Proof

/-- A concatenation as a number. -/
theorem toNat_concat {m n : Nat} (x : BitVec m) (y : BitVec n) : (x ++ y).toNat = x.toNat * 2 ^ n + y.toNat := by
  rw [BitVec.toNat_append, ← Nat.shiftLeft_add_eq_or_of_lt y.isLt, Nat.shiftLeft_eq]

/-- A field as a number (R10). -/
theorem toNat_field (w : Word) (lo len : Nat) : (field w lo len).toNat = w.toNat / 2 ^ lo % 2 ^ len := by
  simp [field, BitVec.extractLsb'_toNat, Nat.shiftRight_eq_div_pow]

theorem toNat_regBits (r : RegIdx) : (regBits r).toNat = r.val := rfl

theorem val_regField (w : Word) (lo : Nat) : (regField w lo).val = w.toNat / 2 ^ lo % 8 := toNat_field w lo 3

/-- One bit of a word as a number. -/
theorem getLsbD_eq_toNat (w : Word) (i : Nat) : w.getLsbD i = decide (w.toNat / 2 ^ i % 2 = 1) := by
  simp [BitVec.getLsbD, Nat.testBit_eq_decide_div_mod_eq]

/-- The word of an instruction as a number: opcode times 4096 plus its operand fields in their places (R63, R64). -/
def wordValue : Instr → Nat
  | .br cond off => cond.toNat * 512 + off.toNat
  | .addReg dr sr1 sr2 => 0x1000 + dr.val * 512 + sr1.val * 64 + sr2.val
  | .addImm dr sr1 imm => 0x1000 + dr.val * 512 + sr1.val * 64 + 32 + imm.toNat
  | .ld dr off => 0x2000 + dr.val * 512 + off.toNat
  | .st sr off => 0x3000 + sr.val * 512 + off.toNat
  | .jsr off => 0x4000 + 2048 + off.toNat
  | .jsrr base => 0x4000 + base.val * 64
  | .andReg dr sr1 sr2 => 0x5000 + dr.val * 512 + sr1.val * 64 + sr2.val
  | .andImm dr sr1 imm => 0x5000 + dr.val * 512 + sr1.val * 64 + 32 + imm.toNat
  | .ldr dr base off => 0x6000 + dr.val * 512 + base.val * 64 + off.toNat
  | .str sr base off => 0x7000 + sr.val * 512 + base.val * 64 + off.toNat
  | .rti => 0x8000
  | .not dr sr => 0x9000 + dr.val * 512 + sr.val * 64 + 63
  | .ldi dr off => 0xA000 + dr.val * 512 + off.toNat
  | .sti sr off => 0xB000 + sr.val * 512 + off.toNat
  | .jmp base => 0xC000 + base.val * 64
  | .res => 0xD000
  | .lea dr off => 0xE000 + dr.val * 512 + off.toNat
  | .trap v => 0xF000 + v.toNat
  | .getc => 0xF020
  | .out => 0xF021
  | .puts => 0xF022
  | .in_ => 0xF023
  | .putsp => 0xF024
  | .halt => 0xF025

theorem toNat_encode (i : Instr) : (encode i).toNat = wordValue i := by
  cases i
  all_goals
    simp only [encode, toNat_concat, toNat_regBits, BitVec.toNat_ofNat, wordValue]
    omega

end Sys2Proof
end

