-- ==== Sys2Proof/Laws/Memory.lean ====
section
/-! SUPPORT. The laws of the word memory: reads after writes, and the canonical form (20_memory.md R40, R46). -/

namespace Sys2Proof

theorem cellsWf_mono {low high : Nat} {cells : List WordCell} (h : low ≤ high) (hw : cellsWf high cells = true) :
    cellsWf low cells = true := by
  cases cells with
  | nil => rfl
  | cons c rest =>
    simp only [cellsWf, Bool.and_eq_true, decide_eq_true_eq] at hw ⊢
    exact ⟨⟨⟨by omega, hw.1.1.2⟩, hw.1.2⟩, hw.2⟩

/-- Below its bound a canonical list has no entry. -/
theorem cellsRead_below {low a : Nat} {cells : List WordCell} (hw : cellsWf low cells = true) (ha : a < low) :
    cellsRead cells a = Memory.unlistedWord := by
  induction cells generalizing low with
  | nil => rfl
  | cons c rest ih =>
    simp only [cellsWf, Bool.and_eq_true, decide_eq_true_eq] at hw
    rw [cellsRead, if_neg (by omega)]
    exact ih hw.2 (by omega)

theorem cellsRead_write_same {low a : Nat} {cells : List WordCell} {w : Word} (hw : cellsWf low cells = true) :
    cellsRead (cellsWrite cells a w) a = w := by
  induction cells generalizing low with
  | nil => by_cases h : w = Memory.unlistedWord <;> simp [cellsWrite, cellsRead, h]
  | cons c rest ih =>
    obtain ⟨k, v⟩ := c
    simp only [cellsWf, Bool.and_eq_true, decide_eq_true_eq] at hw
    rw [cellsWrite]
    split
    · split
      · subst w
        rw [cellsRead, if_neg (by omega)]
        exact cellsRead_below hw.2 (by omega)
      · simp [cellsRead]
    · split
      · split
        · subst w
          exact cellsRead_below hw.2 (by omega)
        · simp [cellsRead]
      · rw [cellsRead, if_neg (by omega)]
        exact ih hw.2

theorem cellsRead_write_other {a b : Nat} {cells : List WordCell} {w : Word} (hab : b ≠ a) :
    cellsRead (cellsWrite cells a w) b = cellsRead cells b := by
  induction cells with
  | nil => by_cases h : w = Memory.unlistedWord <;> simp [cellsWrite, cellsRead, h, Ne.symm hab]
  | cons c rest ih =>
    obtain ⟨k, v⟩ := c
    have hba : ¬ a = b := Ne.symm hab
    rw [cellsWrite]
    repeat' split
    · rfl
    · simp [cellsRead, hba]
    · subst a; simp [cellsRead, hba]
    · subst a; simp [cellsRead, hba]
    · simp [cellsRead, ih]

theorem cellsWf_write {low a : Nat} {cells : List WordCell} {w : Word} (hw : cellsWf low cells = true)
    (hl : low ≤ a) (ha : a < 65536) : cellsWf low (cellsWrite cells a w) = true := by
  induction cells generalizing low with
  | nil => by_cases h : w = Memory.unlistedWord <;> simp [cellsWrite, cellsWf, h, hl, ha]
  | cons c rest ih =>
    obtain ⟨k, v⟩ := c
    have hc := hw
    simp only [cellsWf, Bool.and_eq_true, decide_eq_true_eq] at hw
    rw [cellsWrite]
    split
    · split
      · exact hc
      · simp only [cellsWf, Bool.and_eq_true, decide_eq_true_eq]
        exact ⟨⟨⟨hl, ha⟩, ‹_›⟩, ⟨⟨by omega, hw.1.1.2⟩, hw.1.2⟩, hw.2⟩
    · split
      · split
        · exact cellsWf_mono (by omega) hw.2
        · simp only [cellsWf, Bool.and_eq_true, decide_eq_true_eq]
          exact ⟨⟨⟨hl, ha⟩, ‹_›⟩, cellsWf_mono (by omega) hw.2⟩
      · simp only [cellsWf, Bool.and_eq_true, decide_eq_true_eq]
        exact ⟨hw.1, ih hw.2 (by omega)⟩

/-- Reading what was just written (R46). -/
theorem Memory.read_write_same {m : Memory} (h : m.wf = true) (a w : Word) : (m.write a w).read a = w :=
  cellsRead_write_same h

/-- A write leaves every other address alone (R46). -/
theorem Memory.read_write_other (m : Memory) {a b : Word} (w : Word) (h : b ≠ a) : (m.write a w).read b = m.read b :=
  cellsRead_write_other (by simpa [← BitVec.toNat_inj] using h)

theorem Memory.read_write {m : Memory} (h : m.wf = true) (a b w : Word) :
    (m.write a w).read b = if b = a then w else m.read b := by
  split
  · subst b; exact Memory.read_write_same h a w
  · exact Memory.read_write_other m w ‹_›

/-- A write keeps the canonical form. -/
@[simp] theorem Memory.write_wf {m : Memory} (h : m.wf = true) (a w : Word) : (m.write a w).wf = true :=
  cellsWf_write h (Nat.zero_le _) a.isLt

/-- Loading words keeps the canonical form (R53). -/
theorem Memory.writeWords_wf {m : Memory} (h : m.wf = true) (a : Word) (ws : List Word) : (m.writeWords a ws).wf = true := by
  induction ws generalizing m a with
  | nil => exact h
  | cons w rest ih => exact ih (Memory.write_wf h a w) (a + 1#16)

/-- Everything loading words does to a read (R53): inside the range the loaded word, elsewhere what was there. -/
theorem Memory.read_writeWords {m : Memory} (h : m.wf = true) (a : Word) (ws : List Word)
    (hfit : a.toNat + ws.length ≤ 65536) (b : Word) :
    (m.writeWords a ws).read b = if a.toNat ≤ b.toNat then ws[b.toNat - a.toNat]?.getD (m.read b) else m.read b := by
  induction ws generalizing m a with
  | nil => simp [Memory.writeWords]
  | cons w rest ih =>
    simp only [List.length_cons] at hfit
    rw [Memory.writeWords]
    cases rest with
    | nil =>
      rw [Memory.writeWords, Memory.read_write h]
      by_cases hab : b = a
      · simp [hab]
      · have hne : b.toNat ≠ a.toNat := fun e => hab (BitVec.eq_of_toNat_eq e)
        rw [if_neg hab]
        split
        · rw [List.getElem?_eq_none (by simp; omega)]; rfl
        · rfl
    | cons w' rest' =>
      simp only [List.length_cons] at hfit
      have hnext : (a + 1#16).toNat = a.toNat + 1 := by
        rw [BitVec.toNat_add]; simp; omega
      rw [ih (Memory.write_wf h a w) (a + 1#16) (by rw [hnext]; simp only [List.length_cons]; omega), hnext,
        Memory.read_write h]
      by_cases hab : b = a
      · simp [hab]
      · have hne : b.toNat ≠ a.toNat := fun e => hab (BitVec.eq_of_toNat_eq e)
        rw [if_neg hab]
        by_cases hle : a.toNat + 1 ≤ b.toNat
        · rw [if_pos hle, if_pos (by omega), show b.toNat - a.toNat = (b.toNat - (a.toNat + 1)) + 1 by omega,
            List.getElem?_cons_succ]
        · rw [if_neg hle, if_neg (by omega)]

/-- A memory that lists nothing reads as the unlisted word everywhere (log 2). -/
@[simp] theorem Memory.read_empty (a : Word) : (Memory.mk []).read a = Memory.unlistedWord := rfl

end Sys2Proof
end

