-- ==== Sys2Proof/Laws/State.lean ====
section
/-! SUPPORT. What each update leaves in each field of a VM and of the block. -/

namespace Sys2Proof.Machine

/-! ## A VM -/

/-! `Vm.setReg` -/
@[simp] theorem Vm.setReg_regs (v : Vm) (r : RegIdx) (w : Word) : (v.setReg r w).regs = v.regs.set r w := rfl
@[simp] theorem Vm.setReg_pc (v : Vm) (r : RegIdx) (w : Word) : (v.setReg r w).pc = v.pc := rfl
@[simp] theorem Vm.setReg_flags (v : Vm) (r : RegIdx) (w : Word) : (v.setReg r w).flags = v.flags := rfl
@[simp] theorem Vm.setReg_run (v : Vm) (r : RegIdx) (w : Word) : (v.setReg r w).run = v.run := rfl
@[simp] theorem Vm.setReg_pending (v : Vm) (r : RegIdx) (w : Word) : (v.setReg r w).pending = v.pending := rfl
@[simp] theorem Vm.setReg_blockedInput (v : Vm) (r : RegIdx) (w : Word) : (v.setReg r w).blockedInput = v.blockedInput := rfl
@[simp] theorem Vm.setReg_blockedOutput (v : Vm) (r : RegIdx) (w : Word) : (v.setReg r w).blockedOutput = v.blockedOutput := rfl
@[simp] theorem Vm.setReg_mem (v : Vm) (r : RegIdx) (w : Word) : (v.setReg r w).mem = v.mem := rfl
@[simp] theorem Vm.setReg_initialised (v : Vm) (r : RegIdx) (w : Word) : (v.setReg r w).initialised = v.initialised := rfl

/-! `Vm.setcc` -/
@[simp] theorem Vm.setcc_regs (v : Vm) (w : Word) : (v.setcc w).regs = v.regs := rfl
@[simp] theorem Vm.setcc_pc (v : Vm) (w : Word) : (v.setcc w).pc = v.pc := rfl
@[simp] theorem Vm.setcc_flags (v : Vm) (w : Word) : (v.setcc w).flags = flagsOf w := rfl
@[simp] theorem Vm.setcc_run (v : Vm) (w : Word) : (v.setcc w).run = v.run := rfl
@[simp] theorem Vm.setcc_pending (v : Vm) (w : Word) : (v.setcc w).pending = v.pending := rfl
@[simp] theorem Vm.setcc_blockedInput (v : Vm) (w : Word) : (v.setcc w).blockedInput = v.blockedInput := rfl
@[simp] theorem Vm.setcc_blockedOutput (v : Vm) (w : Word) : (v.setcc w).blockedOutput = v.blockedOutput := rfl
@[simp] theorem Vm.setcc_mem (v : Vm) (w : Word) : (v.setcc w).mem = v.mem := rfl
@[simp] theorem Vm.setcc_initialised (v : Vm) (w : Word) : (v.setcc w).initialised = v.initialised := rfl

/-! `Vm.writeResult` -/
@[simp] theorem Vm.writeResult_regs (v : Vm) (r : RegIdx) (w : Word) : (v.writeResult r w).regs = v.regs.set r w := rfl
@[simp] theorem Vm.writeResult_pc (v : Vm) (r : RegIdx) (w : Word) : (v.writeResult r w).pc = v.pc := rfl
@[simp] theorem Vm.writeResult_flags (v : Vm) (r : RegIdx) (w : Word) : (v.writeResult r w).flags = flagsOf w := rfl
@[simp] theorem Vm.writeResult_run (v : Vm) (r : RegIdx) (w : Word) : (v.writeResult r w).run = v.run := rfl
@[simp] theorem Vm.writeResult_pending (v : Vm) (r : RegIdx) (w : Word) : (v.writeResult r w).pending = v.pending := rfl
@[simp] theorem Vm.writeResult_blockedInput (v : Vm) (r : RegIdx) (w : Word) : (v.writeResult r w).blockedInput = v.blockedInput := rfl
@[simp] theorem Vm.writeResult_blockedOutput (v : Vm) (r : RegIdx) (w : Word) : (v.writeResult r w).blockedOutput = v.blockedOutput := rfl
@[simp] theorem Vm.writeResult_mem (v : Vm) (r : RegIdx) (w : Word) : (v.writeResult r w).mem = v.mem := rfl
@[simp] theorem Vm.writeResult_initialised (v : Vm) (r : RegIdx) (w : Word) : (v.writeResult r w).initialised = v.initialised := rfl

/-! `Vm.memWrite` -/
@[simp] theorem Vm.memWrite_regs (v : Vm) (a w : Word) : (v.memWrite a w).regs = v.regs := rfl
@[simp] theorem Vm.memWrite_pc (v : Vm) (a w : Word) : (v.memWrite a w).pc = v.pc := rfl
@[simp] theorem Vm.memWrite_flags (v : Vm) (a w : Word) : (v.memWrite a w).flags = v.flags := rfl
@[simp] theorem Vm.memWrite_run (v : Vm) (a w : Word) : (v.memWrite a w).run = v.run := rfl
@[simp] theorem Vm.memWrite_pending (v : Vm) (a w : Word) : (v.memWrite a w).pending = v.pending := rfl
@[simp] theorem Vm.memWrite_blockedInput (v : Vm) (a w : Word) : (v.memWrite a w).blockedInput = v.blockedInput := rfl
@[simp] theorem Vm.memWrite_blockedOutput (v : Vm) (a w : Word) : (v.memWrite a w).blockedOutput = v.blockedOutput := rfl
@[simp] theorem Vm.memWrite_mem (v : Vm) (a w : Word) : (v.memWrite a w).mem = v.mem.write a w := rfl
@[simp] theorem Vm.memWrite_initialised (v : Vm) (a w : Word) : (v.memWrite a w).initialised = v.initialised := rfl

/-! `Vm.resume` -/
@[simp] theorem Vm.resume_regs (v : Vm) : v.resume.regs = v.regs := rfl
@[simp] theorem Vm.resume_pc (v : Vm) : v.resume.pc = v.pc := rfl
@[simp] theorem Vm.resume_flags (v : Vm) : v.resume.flags = v.flags := rfl
@[simp] theorem Vm.resume_run (v : Vm) : v.resume.run = .running := rfl
@[simp] theorem Vm.resume_pending (v : Vm) : v.resume.pending = v.pending := rfl
@[simp] theorem Vm.resume_blockedInput (v : Vm) : v.resume.blockedInput = v.blockedInput := rfl
@[simp] theorem Vm.resume_blockedOutput (v : Vm) : v.resume.blockedOutput = v.blockedOutput := rfl
@[simp] theorem Vm.resume_mem (v : Vm) : v.resume.mem = v.mem := rfl
@[simp] theorem Vm.resume_initialised (v : Vm) : v.resume.initialised = v.initialised := rfl

/-! `Vm.stop` -/
@[simp] theorem Vm.stop_regs (v : Vm) : v.stop.regs = v.regs := rfl
@[simp] theorem Vm.stop_pc (v : Vm) : v.stop.pc = v.pc := rfl
@[simp] theorem Vm.stop_flags (v : Vm) : v.stop.flags = v.flags := rfl
@[simp] theorem Vm.stop_run (v : Vm) : v.stop.run = .stopped := rfl
@[simp] theorem Vm.stop_pending (v : Vm) : v.stop.pending = v.pending := rfl
@[simp] theorem Vm.stop_blockedInput (v : Vm) : v.stop.blockedInput = v.blockedInput := rfl
@[simp] theorem Vm.stop_blockedOutput (v : Vm) : v.stop.blockedOutput = v.blockedOutput := rfl
@[simp] theorem Vm.stop_mem (v : Vm) : v.stop.mem = v.mem := rfl
@[simp] theorem Vm.stop_initialised (v : Vm) : v.stop.initialised = v.initialised := rfl

/-! `Vm.reset` -/
@[simp] theorem Vm.reset_regs (v : Vm) : v.reset.regs = Vector.replicate 8 0x0000#16 := rfl
@[simp] theorem Vm.reset_pc (v : Vm) : v.reset.pc = startPc := rfl
@[simp] theorem Vm.reset_flags (v : Vm) : v.reset.flags = 0b000#3 := rfl
@[simp] theorem Vm.reset_run (v : Vm) : v.reset.run = .running := rfl
@[simp] theorem Vm.reset_pending (v : Vm) : v.reset.pending = v.pending := rfl
@[simp] theorem Vm.reset_blockedInput (v : Vm) : v.reset.blockedInput = v.blockedInput := rfl
@[simp] theorem Vm.reset_blockedOutput (v : Vm) : v.reset.blockedOutput = v.blockedOutput := rfl
@[simp] theorem Vm.reset_mem (v : Vm) : v.reset.mem = v.mem := rfl
@[simp] theorem Vm.reset_initialised (v : Vm) : v.reset.initialised = true := rfl

/-! `Vm.setKey` -/
@[simp] theorem Vm.setKey_regs (v : Vm) (k : Word) : (v.setKey k).regs = v.regs := rfl
@[simp] theorem Vm.setKey_pc (v : Vm) (k : Word) : (v.setKey k).pc = v.pc := rfl
@[simp] theorem Vm.setKey_flags (v : Vm) (k : Word) : (v.setKey k).flags = v.flags := rfl
@[simp] theorem Vm.setKey_run (v : Vm) (k : Word) : (v.setKey k).run = v.run := rfl
@[simp] theorem Vm.setKey_pending (v : Vm) (k : Word) : (v.setKey k).pending = some k := rfl
@[simp] theorem Vm.setKey_blockedInput (v : Vm) (k : Word) : (v.setKey k).blockedInput = v.blockedInput := rfl
@[simp] theorem Vm.setKey_blockedOutput (v : Vm) (k : Word) : (v.setKey k).blockedOutput = v.blockedOutput := rfl
@[simp] theorem Vm.setKey_mem (v : Vm) (k : Word) : (v.setKey k).mem = v.mem := rfl
@[simp] theorem Vm.setKey_initialised (v : Vm) (k : Word) : (v.setKey k).initialised = v.initialised := rfl

/-! `Vm.deliverKey` -/
@[simp] theorem Vm.deliverKey_regs (v : Vm) (k : Word) : (v.deliverKey k).regs = v.regs := rfl
@[simp] theorem Vm.deliverKey_pc (v : Vm) (k : Word) : (v.deliverKey k).pc = v.pc := rfl
@[simp] theorem Vm.deliverKey_flags (v : Vm) (k : Word) : (v.deliverKey k).flags = v.flags := rfl
@[simp] theorem Vm.deliverKey_run (v : Vm) (k : Word) : (v.deliverKey k).run = v.run := rfl
@[simp] theorem Vm.deliverKey_pending (v : Vm) (k : Word) : (v.deliverKey k).pending = some k := rfl
@[simp] theorem Vm.deliverKey_blockedInput (v : Vm) (k : Word) : (v.deliverKey k).blockedInput = false := rfl
@[simp] theorem Vm.deliverKey_blockedOutput (v : Vm) (k : Word) : (v.deliverKey k).blockedOutput = v.blockedOutput := rfl
@[simp] theorem Vm.deliverKey_mem (v : Vm) (k : Word) : (v.deliverKey k).mem = v.mem := rfl
@[simp] theorem Vm.deliverKey_initialised (v : Vm) (k : Word) : (v.deliverKey k).initialised = v.initialised := rfl

/-! `Vm.clearOutput` -/
@[simp] theorem Vm.clearOutput_regs (v : Vm) : v.clearOutput.regs = v.regs := rfl
@[simp] theorem Vm.clearOutput_pc (v : Vm) : v.clearOutput.pc = v.pc := rfl
@[simp] theorem Vm.clearOutput_flags (v : Vm) : v.clearOutput.flags = v.flags := rfl
@[simp] theorem Vm.clearOutput_run (v : Vm) : v.clearOutput.run = v.run := rfl
@[simp] theorem Vm.clearOutput_pending (v : Vm) : v.clearOutput.pending = v.pending := rfl
@[simp] theorem Vm.clearOutput_blockedInput (v : Vm) : v.clearOutput.blockedInput = v.blockedInput := rfl
@[simp] theorem Vm.clearOutput_blockedOutput (v : Vm) : v.clearOutput.blockedOutput = false := rfl
@[simp] theorem Vm.clearOutput_mem (v : Vm) : v.clearOutput.mem = v.mem := rfl
@[simp] theorem Vm.clearOutput_initialised (v : Vm) : v.clearOutput.initialised = v.initialised := rfl

/-! `Vm.latchKey` -/
@[simp] theorem Vm.latchKey_regs (v : Vm) : v.latchKey.regs = v.regs := by unfold Vm.latchKey; split <;> simp_all
@[simp] theorem Vm.latchKey_pc (v : Vm) : v.latchKey.pc = v.pc := by unfold Vm.latchKey; split <;> simp_all
@[simp] theorem Vm.latchKey_flags (v : Vm) : v.latchKey.flags = v.flags := by unfold Vm.latchKey; split <;> simp_all
@[simp] theorem Vm.latchKey_run (v : Vm) : v.latchKey.run = v.run := by unfold Vm.latchKey; split <;> simp_all
@[simp] theorem Vm.latchKey_pending (v : Vm) : v.latchKey.pending = none := by unfold Vm.latchKey; split <;> simp_all
@[simp] theorem Vm.latchKey_blockedInput (v : Vm) : v.latchKey.blockedInput = v.blockedInput := by unfold Vm.latchKey; split <;> simp_all
@[simp] theorem Vm.latchKey_blockedOutput (v : Vm) : v.latchKey.blockedOutput = v.blockedOutput := by unfold Vm.latchKey; split <;> simp_all
@[simp] theorem Vm.latchKey_initialised (v : Vm) : v.latchKey.initialised = v.initialised := by unfold Vm.latchKey; split <;> simp_all

/-! `Vm.afterRead` -/
@[simp] theorem Vm.afterRead_regs (v : Vm) (a : Word) : (v.afterRead a).regs = v.regs := by unfold Vm.afterRead; split <;> simp
@[simp] theorem Vm.afterRead_pc (v : Vm) (a : Word) : (v.afterRead a).pc = v.pc := by unfold Vm.afterRead; split <;> simp
@[simp] theorem Vm.afterRead_flags (v : Vm) (a : Word) : (v.afterRead a).flags = v.flags := by unfold Vm.afterRead; split <;> simp
@[simp] theorem Vm.afterRead_run (v : Vm) (a : Word) : (v.afterRead a).run = v.run := by unfold Vm.afterRead; split <;> simp
@[simp] theorem Vm.afterRead_blockedInput (v : Vm) (a : Word) : (v.afterRead a).blockedInput = v.blockedInput := by unfold Vm.afterRead; split <;> simp
@[simp] theorem Vm.afterRead_blockedOutput (v : Vm) (a : Word) : (v.afterRead a).blockedOutput = v.blockedOutput := by unfold Vm.afterRead; split <;> simp
@[simp] theorem Vm.afterRead_initialised (v : Vm) (a : Word) : (v.afterRead a).initialised = v.initialised := by unfold Vm.afterRead; split <;> simp

/-! `Vm.afterFetch` -/
@[simp] theorem Vm.afterFetch_regs (v : Vm) : v.afterFetch.regs = v.regs := by simp [Vm.afterFetch]
@[simp] theorem Vm.afterFetch_pc (v : Vm) : v.afterFetch.pc = v.pc + 1#16 := by simp [Vm.afterFetch]
@[simp] theorem Vm.afterFetch_flags (v : Vm) : v.afterFetch.flags = v.flags := by simp [Vm.afterFetch]
@[simp] theorem Vm.afterFetch_run (v : Vm) : v.afterFetch.run = v.run := by simp [Vm.afterFetch]
@[simp] theorem Vm.afterFetch_pending (v : Vm) : v.afterFetch.pending = (v.afterRead v.pc).pending := by simp [Vm.afterFetch]
@[simp] theorem Vm.afterFetch_blockedInput (v : Vm) : v.afterFetch.blockedInput = v.blockedInput := by simp [Vm.afterFetch]
@[simp] theorem Vm.afterFetch_blockedOutput (v : Vm) : v.afterFetch.blockedOutput = v.blockedOutput := by simp [Vm.afterFetch]
@[simp] theorem Vm.afterFetch_mem (v : Vm) : v.afterFetch.mem = (v.afterRead v.pc).mem := by simp [Vm.afterFetch]
@[simp] theorem Vm.afterFetch_initialised (v : Vm) : v.afterFetch.initialised = v.initialised := by simp [Vm.afterFetch]

/-! `Vm.enterTrap` -/
@[simp] theorem Vm.enterTrap_pc (v : Vm) (cfg : Config) (n : BitVec 8) : (v.enterTrap cfg n).pc = v.pc := by simp only [Vm.enterTrap]; split <;> rfl
@[simp] theorem Vm.enterTrap_flags (v : Vm) (cfg : Config) (n : BitVec 8) : (v.enterTrap cfg n).flags = v.flags := by simp only [Vm.enterTrap]; split <;> rfl
@[simp] theorem Vm.enterTrap_run (v : Vm) (cfg : Config) (n : BitVec 8) : (v.enterTrap cfg n).run = .trapped n := rfl
@[simp] theorem Vm.enterTrap_pending (v : Vm) (cfg : Config) (n : BitVec 8) : (v.enterTrap cfg n).pending = v.pending := by simp only [Vm.enterTrap]; split <;> rfl
@[simp] theorem Vm.enterTrap_blockedInput (v : Vm) (cfg : Config) (n : BitVec 8) : (v.enterTrap cfg n).blockedInput = v.blockedInput := by simp only [Vm.enterTrap]; split <;> rfl
@[simp] theorem Vm.enterTrap_blockedOutput (v : Vm) (cfg : Config) (n : BitVec 8) : (v.enterTrap cfg n).blockedOutput = v.blockedOutput := by simp only [Vm.enterTrap]; split <;> rfl
@[simp] theorem Vm.enterTrap_mem (v : Vm) (cfg : Config) (n : BitVec 8) : (v.enterTrap cfg n).mem = v.mem := by simp only [Vm.enterTrap]; split <;> rfl
@[simp] theorem Vm.enterTrap_initialised (v : Vm) (cfg : Config) (n : BitVec 8) : (v.enterTrap cfg n).initialised = v.initialised := by simp only [Vm.enterTrap]; split <;> rfl

/-! `Vm.link` -/
@[simp] theorem Vm.link_regs (v : Vm) (cfg : Config) : (v.link cfg).regs = v.regs.set 7 v.pc := by unfold Vm.link; split <;> rfl
@[simp] theorem Vm.link_pc (v : Vm) (cfg : Config) : (v.link cfg).pc = v.pc := by unfold Vm.link; split <;> rfl
@[simp] theorem Vm.link_run (v : Vm) (cfg : Config) : (v.link cfg).run = v.run := by unfold Vm.link; split <;> rfl
@[simp] theorem Vm.link_pending (v : Vm) (cfg : Config) : (v.link cfg).pending = v.pending := by unfold Vm.link; split <;> rfl
@[simp] theorem Vm.link_blockedInput (v : Vm) (cfg : Config) : (v.link cfg).blockedInput = v.blockedInput := by unfold Vm.link; split <;> rfl
@[simp] theorem Vm.link_blockedOutput (v : Vm) (cfg : Config) : (v.link cfg).blockedOutput = v.blockedOutput := by unfold Vm.link; split <;> rfl
@[simp] theorem Vm.link_mem (v : Vm) (cfg : Config) : (v.link cfg).mem = v.mem := by unfold Vm.link; split <;> rfl
@[simp] theorem Vm.link_initialised (v : Vm) (cfg : Config) : (v.link cfg).initialised = v.initialised := by unfold Vm.link; split <;> rfl

/-! `Vm.receiveKey` -/
@[simp] theorem Vm.receiveKey_regs (v : Vm) (cfg : Config) (w : Word) : (v.receiveKey cfg w).regs = v.regs.set 0 w := by simp only [Vm.receiveKey]; split <;> rfl
@[simp] theorem Vm.receiveKey_pc (v : Vm) (cfg : Config) (w : Word) : (v.receiveKey cfg w).pc = v.pc := by simp only [Vm.receiveKey]; split <;> rfl
@[simp] theorem Vm.receiveKey_run (v : Vm) (cfg : Config) (w : Word) : (v.receiveKey cfg w).run = v.run := by simp only [Vm.receiveKey]; split <;> rfl
@[simp] theorem Vm.receiveKey_pending (v : Vm) (cfg : Config) (w : Word) : (v.receiveKey cfg w).pending = none := rfl
@[simp] theorem Vm.receiveKey_blockedInput (v : Vm) (cfg : Config) (w : Word) : (v.receiveKey cfg w).blockedInput = v.blockedInput := by simp only [Vm.receiveKey]; split <;> rfl
@[simp] theorem Vm.receiveKey_blockedOutput (v : Vm) (cfg : Config) (w : Word) : (v.receiveKey cfg w).blockedOutput = v.blockedOutput := by simp only [Vm.receiveKey]; split <;> rfl
@[simp] theorem Vm.receiveKey_mem (v : Vm) (cfg : Config) (w : Word) : (v.receiveKey cfg w).mem = v.mem := by simp only [Vm.receiveKey]; split <;> rfl
@[simp] theorem Vm.receiveKey_initialised (v : Vm) (cfg : Config) (w : Word) : (v.receiveKey cfg w).initialised = v.initialised := by simp only [Vm.receiveKey]; split <;> rfl

/-! `Vm.block` -/
@[simp] theorem Vm.block_regs (v : Vm) : v.block.regs = v.regs := by (unfold Vm.block; repeat' split) <;> rfl
@[simp] theorem Vm.block_pc (v : Vm) : v.block.pc = v.pc := by (unfold Vm.block; repeat' split) <;> rfl
@[simp] theorem Vm.block_flags (v : Vm) : v.block.flags = v.flags := by (unfold Vm.block; repeat' split) <;> rfl
@[simp] theorem Vm.block_run (v : Vm) : v.block.run = v.run := by (unfold Vm.block; repeat' split) <;> rfl
@[simp] theorem Vm.block_pending (v : Vm) : v.block.pending = v.pending := by (unfold Vm.block; repeat' split) <;> rfl
@[simp] theorem Vm.block_mem (v : Vm) : v.block.mem = v.mem := by (unfold Vm.block; repeat' split) <;> rfl
@[simp] theorem Vm.block_initialised (v : Vm) : v.block.initialised = v.initialised := by (unfold Vm.block; repeat' split) <;> rfl

/-! ## The block -/

/-! `State.onVmAt` -/
@[simp] theorem State.onVmAt_cfg (s : State) (i : Nat) (f : Vm → Vm) : (s.onVmAt i f).cfg = s.cfg := rfl
@[simp] theorem State.onVmAt_owner (s : State) (i : Nat) (f : Vm → Vm) : (s.onVmAt i f).owner = s.owner := rfl
@[simp] theorem State.onVmAt_running (s : State) (i : Nat) (f : Vm → Vm) : (s.onVmAt i f).running = s.running := rfl
@[simp] theorem State.onVmAt_started (s : State) (i : Nat) (f : Vm → Vm) : (s.onVmAt i f).started = s.started := rfl
@[simp] theorem State.onVmAt_cur (s : State) (i : Nat) (f : Vm → Vm) : (s.onVmAt i f).cur = s.cur := rfl
@[simp] theorem State.onVmAt_activity (s : State) (i : Nat) (f : Vm → Vm) : (s.onVmAt i f).activity = s.activity := rfl
@[simp] theorem State.onVmAt_script (s : State) (i : Nat) (f : Vm → Vm) : (s.onVmAt i f).script = s.script := rfl
@[simp] theorem State.onVmAt_keys (s : State) (i : Nat) (f : Vm → Vm) : (s.onVmAt i f).keys = s.keys := rfl
@[simp] theorem State.onVmAt_output (s : State) (i : Nat) (f : Vm → Vm) : (s.onVmAt i f).output = s.output := rfl
@[simp] theorem State.onVmAt_replies (s : State) (i : Nat) (f : Vm → Vm) : (s.onVmAt i f).replies = s.replies := rfl
@[simp] theorem State.onVmAt_draws (s : State) (i : Nat) (f : Vm → Vm) : (s.onVmAt i f).draws = s.draws := rfl

/-! `State.onVm` -/
@[simp] theorem State.onVm_cfg (s : State) (f : Vm → Vm) : (s.onVm f).cfg = s.cfg := rfl
@[simp] theorem State.onVm_owner (s : State) (f : Vm → Vm) : (s.onVm f).owner = s.owner := rfl
@[simp] theorem State.onVm_running (s : State) (f : Vm → Vm) : (s.onVm f).running = s.running := rfl
@[simp] theorem State.onVm_started (s : State) (f : Vm → Vm) : (s.onVm f).started = s.started := rfl
@[simp] theorem State.onVm_cur (s : State) (f : Vm → Vm) : (s.onVm f).cur = s.cur := rfl
@[simp] theorem State.onVm_activity (s : State) (f : Vm → Vm) : (s.onVm f).activity = s.activity := rfl
@[simp] theorem State.onVm_script (s : State) (f : Vm → Vm) : (s.onVm f).script = s.script := rfl
@[simp] theorem State.onVm_keys (s : State) (f : Vm → Vm) : (s.onVm f).keys = s.keys := rfl
@[simp] theorem State.onVm_output (s : State) (f : Vm → Vm) : (s.onVm f).output = s.output := rfl
@[simp] theorem State.onVm_replies (s : State) (f : Vm → Vm) : (s.onVm f).replies = s.replies := rfl
@[simp] theorem State.onVm_draws (s : State) (f : Vm → Vm) : (s.onVm f).draws = s.draws := rfl

/-! `State.emit` -/
@[simp] theorem State.emit_cfg (s : State) (e : List OutEvent) : (s.emit e).cfg = s.cfg := rfl
@[simp] theorem State.emit_vms (s : State) (e : List OutEvent) : (s.emit e).vms = s.vms := rfl
@[simp] theorem State.emit_owner (s : State) (e : List OutEvent) : (s.emit e).owner = s.owner := rfl
@[simp] theorem State.emit_running (s : State) (e : List OutEvent) : (s.emit e).running = s.running := rfl
@[simp] theorem State.emit_started (s : State) (e : List OutEvent) : (s.emit e).started = s.started := rfl
@[simp] theorem State.emit_cur (s : State) (e : List OutEvent) : (s.emit e).cur = s.cur := rfl
@[simp] theorem State.emit_activity (s : State) (e : List OutEvent) : (s.emit e).activity = s.activity := rfl
@[simp] theorem State.emit_script (s : State) (e : List OutEvent) : (s.emit e).script = s.script := rfl
@[simp] theorem State.emit_keys (s : State) (e : List OutEvent) : (s.emit e).keys = s.keys := rfl
@[simp] theorem State.emit_output (s : State) (e : List OutEvent) : (s.emit e).output = s.output ++ e := rfl
@[simp] theorem State.emit_replies (s : State) (e : List OutEvent) : (s.emit e).replies = s.replies := rfl
@[simp] theorem State.emit_draws (s : State) (e : List OutEvent) : (s.emit e).draws = s.draws := rfl

/-! `State.reply` -/
@[simp] theorem State.reply_cfg (s : State) (r : Reply) : (s.reply r).cfg = s.cfg := rfl
@[simp] theorem State.reply_vms (s : State) (r : Reply) : (s.reply r).vms = s.vms := rfl
@[simp] theorem State.reply_owner (s : State) (r : Reply) : (s.reply r).owner = s.owner := rfl
@[simp] theorem State.reply_running (s : State) (r : Reply) : (s.reply r).running = s.running := rfl
@[simp] theorem State.reply_started (s : State) (r : Reply) : (s.reply r).started = s.started := rfl
@[simp] theorem State.reply_cur (s : State) (r : Reply) : (s.reply r).cur = s.cur := rfl
@[simp] theorem State.reply_activity (s : State) (r : Reply) : (s.reply r).activity = s.activity := rfl
@[simp] theorem State.reply_script (s : State) (r : Reply) : (s.reply r).script = s.script := rfl
@[simp] theorem State.reply_keys (s : State) (r : Reply) : (s.reply r).keys = s.keys := rfl
@[simp] theorem State.reply_output (s : State) (r : Reply) : (s.reply r).output = s.output := rfl
@[simp] theorem State.reply_replies (s : State) (r : Reply) : (s.reply r).replies = s.replies ++ [r] := rfl
@[simp] theorem State.reply_draws (s : State) (r : Reply) : (s.reply r).draws = s.draws := rfl

/-! `State.drawn` -/
@[simp] theorem State.drawn_cfg (s : State) (n : Nat) : (s.drawn n).cfg = s.cfg := rfl
@[simp] theorem State.drawn_vms (s : State) (n : Nat) : (s.drawn n).vms = s.vms := rfl
@[simp] theorem State.drawn_owner (s : State) (n : Nat) : (s.drawn n).owner = s.owner := rfl
@[simp] theorem State.drawn_running (s : State) (n : Nat) : (s.drawn n).running = s.running := rfl
@[simp] theorem State.drawn_started (s : State) (n : Nat) : (s.drawn n).started = s.started := rfl
@[simp] theorem State.drawn_cur (s : State) (n : Nat) : (s.drawn n).cur = s.cur := rfl
@[simp] theorem State.drawn_activity (s : State) (n : Nat) : (s.drawn n).activity = s.activity := rfl
@[simp] theorem State.drawn_script (s : State) (n : Nat) : (s.drawn n).script = s.script := rfl
@[simp] theorem State.drawn_keys (s : State) (n : Nat) : (s.drawn n).keys = s.keys := rfl
@[simp] theorem State.drawn_output (s : State) (n : Nat) : (s.drawn n).output = s.output := rfl
@[simp] theorem State.drawn_replies (s : State) (n : Nat) : (s.drawn n).replies = s.replies := rfl
@[simp] theorem State.drawn_draws (s : State) (n : Nat) : (s.drawn n).draws = s.draws + n := rfl

/-! `State.spendTick` -/
@[simp] theorem State.spendTick_cfg (s : State) : s.spendTick.cfg = s.cfg := rfl
@[simp] theorem State.spendTick_vms (s : State) : s.spendTick.vms = s.vms := rfl
@[simp] theorem State.spendTick_owner (s : State) : s.spendTick.owner = s.owner := rfl
@[simp] theorem State.spendTick_running (s : State) : s.spendTick.running = s.running := rfl
@[simp] theorem State.spendTick_started (s : State) : s.spendTick.started = s.started := rfl
@[simp] theorem State.spendTick_cur (s : State) : s.spendTick.cur = s.cur := rfl
@[simp] theorem State.spendTick_activity (s : State) : s.spendTick.activity = s.activity.spend := rfl
@[simp] theorem State.spendTick_script (s : State) : s.spendTick.script = s.script := rfl
@[simp] theorem State.spendTick_keys (s : State) : s.spendTick.keys = s.keys := rfl
@[simp] theorem State.spendTick_output (s : State) : s.spendTick.output = s.output := rfl
@[simp] theorem State.spendTick_replies (s : State) : s.spendTick.replies = s.replies := rfl
@[simp] theorem State.spendTick_draws (s : State) : s.spendTick.draws = s.draws := rfl

/-! `State.afterFetch` -/
@[simp] theorem State.afterFetch_cfg (s : State) : s.afterFetch.cfg = s.cfg := rfl
@[simp] theorem State.afterFetch_owner (s : State) : s.afterFetch.owner = s.owner := rfl
@[simp] theorem State.afterFetch_running (s : State) : s.afterFetch.running = s.running := rfl
@[simp] theorem State.afterFetch_started (s : State) : s.afterFetch.started = s.started := rfl
@[simp] theorem State.afterFetch_cur (s : State) : s.afterFetch.cur = s.cur := rfl
@[simp] theorem State.afterFetch_activity (s : State) : s.afterFetch.activity = s.activity := rfl
@[simp] theorem State.afterFetch_script (s : State) : s.afterFetch.script = s.script := rfl
@[simp] theorem State.afterFetch_keys (s : State) : s.afterFetch.keys = s.keys := rfl
@[simp] theorem State.afterFetch_output (s : State) : s.afterFetch.output = s.output := rfl
@[simp] theorem State.afterFetch_replies (s : State) : s.afterFetch.replies = s.replies := rfl
@[simp] theorem State.afterFetch_draws (s : State) : s.afterFetch.draws = s.draws := rfl

/-! `State.enterTickRun` -/
@[simp] theorem State.enterTickRun_cfg (s : State) (c : Caller) : (s.enterTickRun c).cfg = s.cfg := rfl
@[simp] theorem State.enterTickRun_vms (s : State) (c : Caller) : (s.enterTickRun c).vms = s.vms := rfl
@[simp] theorem State.enterTickRun_owner (s : State) (c : Caller) : (s.enterTickRun c).owner = s.owner := rfl
@[simp] theorem State.enterTickRun_running (s : State) (c : Caller) : (s.enterTickRun c).running = s.running := rfl
@[simp] theorem State.enterTickRun_started (s : State) (c : Caller) : (s.enterTickRun c).started = s.started := rfl
@[simp] theorem State.enterTickRun_cur (s : State) (c : Caller) : (s.enterTickRun c).cur = s.cur := rfl
@[simp] theorem State.enterTickRun_activity (s : State) (c : Caller) : (s.enterTickRun c).activity = .tick (.run s.cfg.tickQuota) c := rfl
@[simp] theorem State.enterTickRun_script (s : State) (c : Caller) : (s.enterTickRun c).script = s.script := rfl
@[simp] theorem State.enterTickRun_keys (s : State) (c : Caller) : (s.enterTickRun c).keys = s.keys := rfl
@[simp] theorem State.enterTickRun_output (s : State) (c : Caller) : (s.enterTickRun c).output = s.output := rfl
@[simp] theorem State.enterTickRun_replies (s : State) (c : Caller) : (s.enterTickRun c).replies = s.replies := rfl
@[simp] theorem State.enterTickRun_draws (s : State) (c : Caller) : (s.enterTickRun c).draws = s.draws := rfl

/-! `State.markCounted` -/
@[simp] theorem State.markCounted_cfg (s : State) (i : Nat) : (s.markCounted i).cfg = s.cfg := rfl
@[simp] theorem State.markCounted_owner (s : State) (i : Nat) : (s.markCounted i).owner = s.owner := rfl
@[simp] theorem State.markCounted_running (s : State) (i : Nat) : (s.markCounted i).running = s.running := rfl
@[simp] theorem State.markCounted_started (s : State) (i : Nat) : (s.markCounted i).started = s.started := rfl
@[simp] theorem State.markCounted_cur (s : State) (i : Nat) : (s.markCounted i).cur = s.cur := rfl
@[simp] theorem State.markCounted_activity (s : State) (i : Nat) : (s.markCounted i).activity = s.activity := rfl
@[simp] theorem State.markCounted_script (s : State) (i : Nat) : (s.markCounted i).script = s.script := rfl
@[simp] theorem State.markCounted_keys (s : State) (i : Nat) : (s.markCounted i).keys = s.keys := rfl
@[simp] theorem State.markCounted_output (s : State) (i : Nat) : (s.markCounted i).output = s.output := rfl
@[simp] theorem State.markCounted_replies (s : State) (i : Nat) : (s.markCounted i).replies = s.replies := rfl
@[simp] theorem State.markCounted_draws (s : State) (i : Nat) : (s.markCounted i).draws = s.draws := rfl

/-! `State.account` -/
@[simp] theorem State.account_cfg (s : State) (b : Bool) : (s.account b).cfg = s.cfg := by (unfold State.account; repeat' split) <;> rfl
@[simp] theorem State.account_owner (s : State) (b : Bool) : (s.account b).owner = s.owner := by (unfold State.account; repeat' split) <;> rfl
@[simp] theorem State.account_started (s : State) (b : Bool) : (s.account b).started = s.started := by (unfold State.account; repeat' split) <;> rfl
@[simp] theorem State.account_cur (s : State) (b : Bool) : (s.account b).cur = s.cur := by (unfold State.account; repeat' split) <;> rfl
@[simp] theorem State.account_activity (s : State) (b : Bool) : (s.account b).activity = s.activity := by (unfold State.account; repeat' split) <;> rfl
@[simp] theorem State.account_script (s : State) (b : Bool) : (s.account b).script = s.script := by (unfold State.account; repeat' split) <;> rfl
@[simp] theorem State.account_keys (s : State) (b : Bool) : (s.account b).keys = s.keys := by (unfold State.account; repeat' split) <;> rfl
@[simp] theorem State.account_output (s : State) (b : Bool) : (s.account b).output = s.output := by (unfold State.account; repeat' split) <;> rfl
@[simp] theorem State.account_replies (s : State) (b : Bool) : (s.account b).replies = s.replies := by (unfold State.account; repeat' split) <;> rfl
@[simp] theorem State.account_draws (s : State) (b : Bool) : (s.account b).draws = s.draws := by (unfold State.account; repeat' split) <;> rfl

/-! `State.nextInRound` -/
@[simp] theorem State.nextInRound_cfg (s : State) (b : Bool) : (s.nextInRound b).cfg = s.cfg := by unfold State.nextInRound; split <;> rfl
@[simp] theorem State.nextInRound_vms (s : State) (b : Bool) : (s.nextInRound b).vms = s.vms := by unfold State.nextInRound; split <;> rfl
@[simp] theorem State.nextInRound_owner (s : State) (b : Bool) : (s.nextInRound b).owner = s.owner := by unfold State.nextInRound; split <;> rfl
@[simp] theorem State.nextInRound_running (s : State) (b : Bool) : (s.nextInRound b).running = s.running := by unfold State.nextInRound; split <;> rfl
@[simp] theorem State.nextInRound_started (s : State) (b : Bool) : (s.nextInRound b).started = s.started := by unfold State.nextInRound; split <;> rfl
@[simp] theorem State.nextInRound_script (s : State) (b : Bool) : (s.nextInRound b).script = s.script := by unfold State.nextInRound; split <;> rfl
@[simp] theorem State.nextInRound_keys (s : State) (b : Bool) : (s.nextInRound b).keys = s.keys := by unfold State.nextInRound; split <;> rfl
@[simp] theorem State.nextInRound_output (s : State) (b : Bool) : (s.nextInRound b).output = s.output := by unfold State.nextInRound; split <;> rfl
@[simp] theorem State.nextInRound_replies (s : State) (b : Bool) : (s.nextInRound b).replies = s.replies := by unfold State.nextInRound; split <;> rfl
@[simp] theorem State.nextInRound_draws (s : State) (b : Bool) : (s.nextInRound b).draws = s.draws := by unfold State.nextInRound; split <;> rfl

/-! `State.tickReturn` -/
@[simp] theorem State.tickReturn_cfg (s : State) (c : Caller) (b : Bool) : (s.tickReturn c b).cfg = s.cfg := by cases c <;> simp [State.tickReturn]
@[simp] theorem State.tickReturn_owner (s : State) (c : Caller) (b : Bool) : (s.tickReturn c b).owner = s.owner := by cases c <;> simp [State.tickReturn]
@[simp] theorem State.tickReturn_started (s : State) (c : Caller) (b : Bool) : (s.tickReturn c b).started = s.started := by cases c <;> simp [State.tickReturn]
@[simp] theorem State.tickReturn_script (s : State) (c : Caller) (b : Bool) : (s.tickReturn c b).script = s.script := by cases c <;> simp [State.tickReturn]
@[simp] theorem State.tickReturn_keys (s : State) (c : Caller) (b : Bool) : (s.tickReturn c b).keys = s.keys := by cases c <;> simp [State.tickReturn]
@[simp] theorem State.tickReturn_output (s : State) (c : Caller) (b : Bool) : (s.tickReturn c b).output = s.output := by cases c <;> simp [State.tickReturn]
@[simp] theorem State.tickReturn_draws (s : State) (c : Caller) (b : Bool) : (s.tickReturn c b).draws = s.draws := by cases c <;> simp [State.tickReturn]
@[simp] theorem State.tickReturn_round_replies (s : State) (l b : Bool) : (s.tickReturn (.round l) b).replies = s.replies := by simp [State.tickReturn]

/-! `State.afterPoll` -/
@[simp] theorem State.afterPoll_cfg (s : State) : s.afterPoll.cfg = s.cfg := rfl
@[simp] theorem State.afterPoll_vms (s : State) : s.afterPoll.vms = s.vms := rfl
@[simp] theorem State.afterPoll_owner (s : State) : s.afterPoll.owner = s.owner := rfl
@[simp] theorem State.afterPoll_running (s : State) : s.afterPoll.running = s.running := rfl
@[simp] theorem State.afterPoll_started (s : State) : s.afterPoll.started = s.started := rfl
@[simp] theorem State.afterPoll_cur (s : State) : s.afterPoll.cur = s.cur := rfl
@[simp] theorem State.afterPoll_activity (s : State) : s.afterPoll.activity = s.activity := rfl
@[simp] theorem State.afterPoll_script (s : State) : s.afterPoll.script = s.script := rfl
@[simp] theorem State.afterPoll_keys (s : State) : s.afterPoll.keys = s.keys.tail := rfl
@[simp] theorem State.afterPoll_output (s : State) : s.afterPoll.output = s.output := rfl
@[simp] theorem State.afterPoll_replies (s : State) : s.afterPoll.replies = s.replies := rfl
@[simp] theorem State.afterPoll_draws (s : State) : s.afterPoll.draws = s.draws := rfl

/-! `State.cycleOwner` -/
@[simp] theorem State.cycleOwner_cfg (s : State) : s.cycleOwner.cfg = s.cfg := rfl
@[simp] theorem State.cycleOwner_vms (s : State) : s.cycleOwner.vms = s.vms := rfl
@[simp] theorem State.cycleOwner_owner (s : State) : s.cycleOwner.owner = s.owner.map (fun o => (o + 1) % s.vms.length) := rfl
@[simp] theorem State.cycleOwner_running (s : State) : s.cycleOwner.running = s.running := rfl
@[simp] theorem State.cycleOwner_started (s : State) : s.cycleOwner.started = s.started := rfl
@[simp] theorem State.cycleOwner_cur (s : State) : s.cycleOwner.cur = s.cur := rfl
@[simp] theorem State.cycleOwner_activity (s : State) : s.cycleOwner.activity = s.activity := rfl
@[simp] theorem State.cycleOwner_script (s : State) : s.cycleOwner.script = s.script := rfl
@[simp] theorem State.cycleOwner_keys (s : State) : s.cycleOwner.keys = s.keys := rfl
@[simp] theorem State.cycleOwner_output (s : State) : s.cycleOwner.output = s.output := rfl
@[simp] theorem State.cycleOwner_replies (s : State) : s.cycleOwner.replies = s.replies := rfl
@[simp] theorem State.cycleOwner_draws (s : State) : s.cycleOwner.draws = s.draws := rfl

/-! `State.onOwner` -/
@[simp] theorem State.onOwner_cfg (s : State) (f : Vm → Vm) : (s.onOwner f).cfg = s.cfg := by unfold State.onOwner; split <;> rfl
@[simp] theorem State.onOwner_owner (s : State) (f : Vm → Vm) : (s.onOwner f).owner = s.owner := by unfold State.onOwner; split <;> rfl
@[simp] theorem State.onOwner_running (s : State) (f : Vm → Vm) : (s.onOwner f).running = s.running := by unfold State.onOwner; split <;> rfl
@[simp] theorem State.onOwner_started (s : State) (f : Vm → Vm) : (s.onOwner f).started = s.started := by unfold State.onOwner; split <;> rfl
@[simp] theorem State.onOwner_cur (s : State) (f : Vm → Vm) : (s.onOwner f).cur = s.cur := by unfold State.onOwner; split <;> rfl
@[simp] theorem State.onOwner_activity (s : State) (f : Vm → Vm) : (s.onOwner f).activity = s.activity := by unfold State.onOwner; split <;> rfl
@[simp] theorem State.onOwner_script (s : State) (f : Vm → Vm) : (s.onOwner f).script = s.script := by unfold State.onOwner; split <;> rfl
@[simp] theorem State.onOwner_keys (s : State) (f : Vm → Vm) : (s.onOwner f).keys = s.keys := by unfold State.onOwner; split <;> rfl
@[simp] theorem State.onOwner_output (s : State) (f : Vm → Vm) : (s.onOwner f).output = s.output := by unfold State.onOwner; split <;> rfl
@[simp] theorem State.onOwner_replies (s : State) (f : Vm → Vm) : (s.onOwner f).replies = s.replies := by unfold State.onOwner; split <;> rfl
@[simp] theorem State.onOwner_draws (s : State) (f : Vm → Vm) : (s.onOwner f).draws = s.draws := by unfold State.onOwner; split <;> rfl

/-! `State.keyStep` -/
@[simp] theorem State.keyStep_cfg (s : State) (k : Option Word) : (s.keyStep k).cfg = s.cfg := by (unfold State.keyStep; repeat' split) <;> simp
@[simp] theorem State.keyStep_running (s : State) (k : Option Word) : (s.keyStep k).running = s.running := by (unfold State.keyStep; repeat' split) <;> simp
@[simp] theorem State.keyStep_started (s : State) (k : Option Word) : (s.keyStep k).started = s.started := by (unfold State.keyStep; repeat' split) <;> simp
@[simp] theorem State.keyStep_cur (s : State) (k : Option Word) : (s.keyStep k).cur = s.cur := by (unfold State.keyStep; repeat' split) <;> simp
@[simp] theorem State.keyStep_activity (s : State) (k : Option Word) : (s.keyStep k).activity = s.activity := by (unfold State.keyStep; repeat' split) <;> simp
@[simp] theorem State.keyStep_script (s : State) (k : Option Word) : (s.keyStep k).script = s.script := by (unfold State.keyStep; repeat' split) <;> simp
@[simp] theorem State.keyStep_keys (s : State) (k : Option Word) : (s.keyStep k).keys = s.keys := by (unfold State.keyStep; repeat' split) <;> simp
@[simp] theorem State.keyStep_output (s : State) (k : Option Word) : (s.keyStep k).output = s.output := by (unfold State.keyStep; repeat' split) <;> simp
@[simp] theorem State.keyStep_replies (s : State) (k : Option Word) : (s.keyStep k).replies = s.replies := by (unfold State.keyStep; repeat' split) <;> simp
@[simp] theorem State.keyStep_draws (s : State) (k : Option Word) : (s.keyStep k).draws = s.draws := by (unfold State.keyStep; repeat' split) <;> simp

/-! `State.beginRound` -/
@[simp] theorem State.beginRound_cfg (s : State) (b : Bool) : (s.beginRound b).cfg = s.cfg := by unfold State.beginRound; simp only []; split <;> simp
@[simp] theorem State.beginRound_running (s : State) (b : Bool) : (s.beginRound b).running = s.running := by unfold State.beginRound; simp only []; split <;> simp
@[simp] theorem State.beginRound_started (s : State) (b : Bool) : (s.beginRound b).started = s.started := by unfold State.beginRound; simp only []; split <;> simp
@[simp] theorem State.beginRound_script (s : State) (b : Bool) : (s.beginRound b).script = s.script := by unfold State.beginRound; simp only []; split <;> simp
@[simp] theorem State.beginRound_keys (s : State) (b : Bool) : (s.beginRound b).keys = s.keys.tail := by unfold State.beginRound; simp only []; split <;> simp
@[simp] theorem State.beginRound_output (s : State) (b : Bool) : (s.beginRound b).output = s.output := by unfold State.beginRound; simp only []; split <;> simp
@[simp] theorem State.beginRound_replies (s : State) (b : Bool) : (s.beginRound b).replies = s.replies := by unfold State.beginRound; simp only []; split <;> simp
@[simp] theorem State.beginRound_draws (s : State) (b : Bool) : (s.beginRound b).draws = s.draws := by unfold State.beginRound; simp only []; split <;> simp

/-! `State.append` -/
@[simp] theorem State.append_cfg (s : State) (v : Vm) (b : Bool) : (s.append v b).cfg = s.cfg := rfl
@[simp] theorem State.append_vms (s : State) (v : Vm) (b : Bool) : (s.append v b).vms = s.vms ++ [{ vm := v, counted := false, joined := b }] := rfl
@[simp] theorem State.append_owner (s : State) (v : Vm) (b : Bool) : (s.append v b).owner = s.owner := rfl
@[simp] theorem State.append_running (s : State) (v : Vm) (b : Bool) : (s.append v b).running = s.running := rfl
@[simp] theorem State.append_started (s : State) (v : Vm) (b : Bool) : (s.append v b).started = s.started := rfl
@[simp] theorem State.append_cur (s : State) (v : Vm) (b : Bool) : (s.append v b).cur = s.cur := rfl
@[simp] theorem State.append_activity (s : State) (v : Vm) (b : Bool) : (s.append v b).activity = s.activity := rfl
@[simp] theorem State.append_script (s : State) (v : Vm) (b : Bool) : (s.append v b).script = s.script := rfl
@[simp] theorem State.append_keys (s : State) (v : Vm) (b : Bool) : (s.append v b).keys = s.keys := rfl
@[simp] theorem State.append_output (s : State) (v : Vm) (b : Bool) : (s.append v b).output = s.output := rfl
@[simp] theorem State.append_replies (s : State) (v : Vm) (b : Bool) : (s.append v b).replies = s.replies := rfl
@[simp] theorem State.append_draws (s : State) (v : Vm) (b : Bool) : (s.append v b).draws = s.draws := rfl

/-! `State.join` -/
@[simp] theorem State.join_cfg (s : State) (v : Vm) : (s.join v).cfg = s.cfg := rfl
@[simp] theorem State.join_vms (s : State) (v : Vm) : (s.join v).vms = s.vms ++ [{ vm := v, counted := false, joined := true }] := rfl
@[simp] theorem State.join_owner (s : State) (v : Vm) : (s.join v).owner = some (s.owner.getD 0) := rfl
@[simp] theorem State.join_running (s : State) (v : Vm) : (s.join v).running = s.running + 1 := rfl
@[simp] theorem State.join_started (s : State) (v : Vm) : (s.join v).started = s.started := rfl
@[simp] theorem State.join_cur (s : State) (v : Vm) : (s.join v).cur = s.cur := rfl
@[simp] theorem State.join_activity (s : State) (v : Vm) : (s.join v).activity = s.activity := rfl
@[simp] theorem State.join_script (s : State) (v : Vm) : (s.join v).script = s.script := rfl
@[simp] theorem State.join_keys (s : State) (v : Vm) : (s.join v).keys = s.keys := rfl
@[simp] theorem State.join_output (s : State) (v : Vm) : (s.join v).output = s.output := rfl
@[simp] theorem State.join_replies (s : State) (v : Vm) : (s.join v).replies = s.replies := rfl
@[simp] theorem State.join_draws (s : State) (v : Vm) : (s.join v).draws = s.draws := rfl

end Sys2Proof.Machine
end

