-- ==== Sys2Proof/Laws/Ops.lean ====
section
/-! SUPPORT. The laws of the shared operations: registers, MemRead, the collection of VMs, the flags, and that the
operations keep what holds of every VM. -/

namespace Sys2Proof.Machine

/-! ### Registers (R20) -/

theorem Vm.reg_eq_of_regs {v v' : Vm} (h : v'.regs = v.regs) (r : RegIdx) : v'.reg r = v.reg r := by
  simp [Vm.reg, h]

/-- Reading a register after writing one. -/
@[simp] theorem Vm.reg_setReg (v : Vm) (r q : RegIdx) (w : Word) :
    (v.setReg r w).reg q = if q = r then w else v.reg q := by
  simp [Vm.reg, Vector.getElem_set, Fin.val_inj, eq_comm]

@[simp] theorem Vm.reg_setcc (v : Vm) (w : Word) (q : RegIdx) : (v.setcc w).reg q = v.reg q := rfl
@[simp] theorem Vm.reg_writeResult (v : Vm) (r q : RegIdx) (w : Word) :
    (v.writeResult r w).reg q = if q = r then w else v.reg q := by
  simp [Vm.writeResult]
@[simp] theorem Vm.reg_memWrite (v : Vm) (a w : Word) (q : RegIdx) : (v.memWrite a w).reg q = v.reg q := rfl
@[simp] theorem Vm.reg_afterRead (v : Vm) (a : Word) (q : RegIdx) : (v.afterRead a).reg q = v.reg q :=
  Vm.reg_eq_of_regs (Vm.afterRead_regs v a) q
@[simp] theorem Vm.reg_afterFetch (v : Vm) (q : RegIdx) : v.afterFetch.reg q = v.reg q :=
  Vm.reg_eq_of_regs (Vm.afterFetch_regs v) q
@[simp] theorem Vm.reg_resume (v : Vm) (q : RegIdx) : v.resume.reg q = v.reg q := rfl
@[simp] theorem Vm.reg_stop (v : Vm) (q : RegIdx) : v.stop.reg q = v.reg q := rfl
@[simp] theorem Vm.reg_setKey (v : Vm) (k : Word) (q : RegIdx) : (v.setKey k).reg q = v.reg q := rfl
@[simp] theorem Vm.reg_block (v : Vm) (q : RegIdx) : v.block.reg q = v.reg q := Vm.reg_eq_of_regs (Vm.block_regs v) q
@[simp] theorem Vm.reg_reset (v : Vm) (q : RegIdx) : v.reset.reg q = 0x0000#16 := by simp [Vm.reg]
@[simp] theorem Vm.reg_link (v : Vm) (cfg : Config) (q : RegIdx) :
    (v.link cfg).reg q = if q = 7 then v.pc else v.reg q := by
  unfold Vm.link; split <;> simp
@[simp] theorem Vm.reg_receiveKey (v : Vm) (cfg : Config) (w : Word) (q : RegIdx) :
    (v.receiveKey cfg w).reg q = if q = 0 then w else v.reg q := by
  have h : (v.receiveKey cfg w).reg q = (v.setReg 0 w).reg q := Vm.reg_eq_of_regs (by simp) q
  rw [h, Vm.reg_setReg]
@[simp] theorem Vm.reg_enterTrap (v : Vm) (cfg : Config) (n : BitVec 8) (q : RegIdx) :
    (v.enterTrap cfg n).reg q = if cfg.trapWritesR7 = true ∧ q = 7 then v.pc else v.reg q := by
  have h : (v.enterTrap cfg n).reg q = (if cfg.trapWritesR7 then v.setReg 7 v.pc else v).reg q := rfl
  rw [h]; split <;> simp_all

/-! ### The flag update (R27) -/

theorem flagsOf_legal (w : Word) : legalFlags (flagsOf w) := by
  unfold flagsOf legalFlags; split
  · simp
  · split <;> simp

/-! ### MemRead (R44, R45) -/

/-- Everything a MemRead does to a VM: nothing away from the keyboard-status address, the latch at it. -/
theorem Vm.afterRead_cases (v : Vm) (a : Word) :
    (a ≠ kbsr ∧ v.afterRead a = v) ∨ (a = kbsr ∧ v.afterRead a = v.latchKey) := by
  unfold Vm.afterRead; split <;> simp_all

@[simp] theorem Vm.afterRead_of_ne (v : Vm) {a : Word} (h : a ≠ kbsr) : v.afterRead a = v := if_neg h

@[simp] theorem Vm.memRead_of_ne (v : Vm) {a : Word} (h : a ≠ kbsr) : v.memRead a = v.mem.read a := by
  simp [Vm.memRead, h]

/-- A latch changes memory at the two keyboard registers only. -/
theorem Vm.latchKey_read_other (v : Vm) {a : Word} (h : a ≠ kbsr) (h' : a ≠ kbdr) :
    v.latchKey.mem.read a = v.mem.read a := by
  unfold Vm.latchKey; split
  · simp only []
    rw [Memory.read_write_other _ _ h', Memory.read_write_other _ _ h]
  · exact Memory.read_write_other _ _ h

theorem Vm.afterRead_read_other (v : Vm) (b : Word) {a : Word} (h : a ≠ kbsr) (h' : a ≠ kbdr) :
    (v.afterRead b).mem.read a = v.mem.read a := by
  unfold Vm.afterRead; split
  · exact v.latchKey_read_other h h'
  · rfl

theorem Vm.latchKey_memory {v : Vm} (h : v.mem.wf = true) : v.latchKey.mem.wf = true := by
  unfold Vm.latchKey; split <;> simp [Memory.write_wf, h]

theorem Vm.afterRead_memory {v : Vm} (h : v.mem.wf = true) (a : Word) : (v.afterRead a).mem.wf = true := by
  unfold Vm.afterRead; split
  · exact Vm.latchKey_memory h
  · exact h

/-! ### Loading (R53, R182) -/

theorem Image.fits_iff (img : Image) : img.fits = true ↔ img.origin.toNat + img.words.length ≤ 65536 := by
  simp [Image.fits]

/-- A read after an image that fits was loaded (R53). -/
theorem Memory.read_loaded {m : Memory} (h : m.wf = true) {img : Image} (hf : img.fits = true) (a : Word) :
    (m.writeWords img.origin img.words).read a = (img.wordAt a).getD (m.read a) := by
  rw [Memory.read_writeWords h _ _ (img.fits_iff.mp hf)]
  unfold Image.wordAt
  split <;> rfl

/-- Everything a loader whose images all fit does: it succeeds, and changes memory alone (R53, R182). -/
theorem Vm.loadAll_of_fits (images : List Image) (v : Vm) (h : v.mem.wf = true) (hf : ∀ img ∈ images, img.fits = true) :
    ∃ m : Memory, v.loadAll images = some { v with mem := m } ∧ m.wf = true ∧
      ∀ a : Word, m.read a = wordAfterLoads images a (v.mem.read a) := by
  induction images generalizing v with
  | nil => exact ⟨v.mem, rfl, h, fun _ => rfl⟩
  | cons img rest ih =>
    have hi : img.fits = true := hf img List.mem_cons_self
    obtain ⟨m, h1, h2, h3⟩ := ih { v with mem := v.mem.writeWords img.origin img.words } (Memory.writeWords_wf h _ _)
      fun i hm => hf i (List.mem_cons_of_mem _ hm)
    refine ⟨m, by simpa [Vm.loadAll, Vm.load, hi] using h1, h2, fun a => ?_⟩
    rw [h3 a, Memory.read_loaded h hi]
    rfl

/-- A loader with an image that does not fit has no result (R53). -/
theorem Vm.loadAll_of_not_fits {images : List Image} (v : Vm) (h : ∃ img ∈ images, img.fits = false) :
    v.loadAll images = none := by
  induction images generalizing v with
  | nil => simp at h
  | cons img rest ih =>
    by_cases hi : img.fits = true
    · obtain ⟨i, hm, hn⟩ := h
      have hr : i ∈ rest := (List.mem_cons.mp hm).resolve_left fun e => by rw [e, hi] at hn; cases hn
      simpa [Vm.loadAll, Vm.load, hi] using ih _ ⟨i, hr, hn⟩
    · simp [Vm.loadAll, Vm.load, hi]

/-! ### The collection of VMs (R36, R39) -/

@[simp] theorem State.vms_length_onVmAt (s : State) (i : Nat) (f : Vm → Vm) :
    (s.onVmAt i f).vms.length = s.vms.length := by simp [State.onVmAt]

@[simp] theorem State.vms_length_onVm (s : State) (f : Vm → Vm) : (s.onVm f).vms.length = s.vms.length := by
  simp [State.onVm]

/-- An entry of the collection after a change of one VM. -/
theorem State.getElem?_onVmAt (s : State) (i j : Nat) (f : Vm → Vm) :
    (s.onVmAt i f).vms[j]? =
      if i = j then s.vms[j]?.map (fun slot => { slot with vm := f slot.vm }) else s.vms[j]? := by
  simp only [State.onVmAt, List.getElem?_modify]
  split <;> simp

/-- A VM after a change of one VM. -/
theorem State.vmAt_onVmAt (s : State) (i j : Nat) (f : Vm → Vm) :
    (s.onVmAt i f).vmAt j = if i = j then (s.vmAt j).map f else s.vmAt j := by
  simp only [State.vmAt, State.getElem?_onVmAt]
  split
  · cases s.vms[j]? <;> rfl
  · rfl

@[simp] theorem State.vm?_onVm (s : State) (f : Vm → Vm) : (s.onVm f).vm? = s.vm?.map f := by
  simp [State.vm?, State.onVm, State.vmAt_onVmAt]

theorem State.vmAt_isSome_iff (s : State) (i : Nat) : (s.vmAt i).isSome ↔ i < s.vms.length := by
  simp [State.vmAt]

theorem State.lt_of_vmAt {s : State} {i : Nat} {v : Vm} (h : s.vmAt i = some v) : i < s.vms.length := by
  rw [← s.vmAt_isSome_iff, h]; rfl

/-- The entries after a change of one VM: an old one, or the changed one. -/
theorem State.mem_onVmAt {s : State} {i : Nat} {f : Vm → Vm} {slot : Slot} (h : slot ∈ (s.onVmAt i f).vms) :
    slot ∈ s.vms ∨ ∃ old ∈ s.vms, s.vms[i]? = some old ∧ slot = { old with vm := f old.vm } := by
  obtain ⟨j, hj⟩ := List.getElem?_of_mem h
  rw [State.getElem?_onVmAt] at hj
  split at hj
  · subst j
    cases hs : s.vms[i]? with
    | none => simp [hs] at hj
    | some old =>
      simp [hs] at hj
      exact .inr ⟨old, List.mem_of_getElem? hs, rfl, hj.symm⟩
  · exact .inl (List.mem_of_getElem? hj)

/-- Changing a VM leaves all else in the block (R39). -/
theorem State.sameBut_onVmAt (s : State) (i : Nat) (f : Vm → Vm) : s.SameBut (s.onVmAt i f) i where
  cfg := rfl
  owner := rfl
  running := rfl
  started := rfl
  cur := rfl
  activity := rfl
  script := rfl
  keys := rfl
  output := rfl
  replies := rfl
  draws := rfl
  count := by simp
  others j h := by rw [State.getElem?_onVmAt, if_neg (Ne.symm h)]
  counted := by rw [State.getElem?_onVmAt, if_pos rfl]; cases s.vms[i]? <;> rfl
  joined := by rw [State.getElem?_onVmAt, if_pos rfl]; cases s.vms[i]? <;> rfl

theorem State.sameBut_onVm (s : State) (f : Vm → Vm) : s.SameBut (s.onVm f) s.cur := s.sameBut_onVmAt s.cur f

/-- The marks of the collection do not depend on the VMs (R187). -/
@[simp] theorem State.filter_onVmAt (s : State) (i : Nat) (f : Vm → Vm) :
    ((s.onVmAt i f).vms.filter Slot.stillCounts).length = (s.vms.filter Slot.stillCounts).length := by
  have h : ∀ (l : List Slot) (k : Nat),
      ((l.modify k fun slot => { slot with vm := f slot.vm }).filter Slot.stillCounts).length
        = (l.filter Slot.stillCounts).length := by
    intro l
    induction l with
    | nil => intro k; cases k <;> rfl
    | cons a rest ih =>
      intro k
      cases k with
      | zero => simp [Slot.stillCounts, List.filter_cons]; split <;> simp
      | succ k => simp [List.filter_cons]; split <;> simp [ih]
  exact h s.vms i

/-! ### Going on after a next state -/

@[simp] theorem andThen_next (s : State) (f : State → State) : andThen (.next s) f = .next (f s) := rfl
@[simp] theorem andThen_fault (r : Fault) (f : State → State) : andThen (.fault r) f = .fault r := rfl
@[simp] theorem andThen_refused (r : Refusal) (f : State → State) : andThen (.refused r) f = .refused r := rfl

/-- `andThen` answers a next state only after one. -/
theorem andThen_eq_next {o : Host.Outcome State Fault Refusal} {f : State → State} {t : State}
    (h : andThen o f = .next t) : ∃ s, o = .next s ∧ t = f s := by
  cases o with
  | next s => exact ⟨s, rfl, by simpa using h.symm⟩
  | fault r => cases h
  | refused r => cases h

end Sys2Proof.Machine
end

