-- ==== Sys2Proof/Laws/Exec.lean ====
section
/-! SUPPORT. What every instruction does, said once: exec changes the VM at `cur` by `Vm.effect` and nothing else. -/

namespace Sys2Proof.Machine

/-- What an instruction does to its VM, after the fetch. -/
def Vm.effect (v : Vm) (cfg : Config) : Instr → Vm
  | .br cond off => if branchTaken cond v.flags then { v with pc := v.pcRel9 off } else v
  | .addReg dr sr1 sr2 => v.writeResult dr (v.reg sr1 + v.reg sr2)
  | .addImm dr sr1 imm => v.writeResult dr (v.reg sr1 + sext imm)
  | .ld dr off => v.loadInto dr (v.pcRel9 off)
  | .st sr off => v.memWrite (v.pcRel9 off) (v.reg sr)
  | .jsr off => { v.link cfg with pc := v.pcRel11 off }
  | .jsrr base => { v.link cfg with pc := (v.link cfg).reg base }
  | .andReg dr sr1 sr2 => v.writeResult dr (v.reg sr1 &&& v.reg sr2)
  | .andImm dr sr1 imm => v.writeResult dr (v.reg sr1 &&& sext imm)
  | .ldr dr base off => v.loadInto dr (v.baseOffset base off)
  | .str sr base off => v.memWrite (v.baseOffset base off) (v.reg sr)
  | .rti => v.stop
  | .not dr sr => v.writeResult dr (~~~ v.reg sr)
  | .ldi dr off => (v.afterIndirect off).loadInto dr (v.indirect off)
  | .sti sr off => (v.afterIndirect off).memWrite (v.indirect off) (v.reg sr)
  | .jmp base => { v with pc := v.reg base }
  | .res => v.stop
  | .lea dr off => v.writeResult dr (v.pcRel9 off)
  | .trap n => v.enterTrap cfg n
  | .getc => v.enterTrap cfg 0x20#8
  | .out => v.enterTrap cfg 0x21#8
  | .puts => v.enterTrap cfg 0x22#8
  | .in_ => v.enterTrap cfg 0x23#8
  | .putsp => v.enterTrap cfg 0x24#8
  | .halt => v.enterTrap cfg 0x25#8

/-- exec always answers a next state: the effect on the VM at `cur`, everything else as it was. -/
theorem exec_eq (i : Instr) (s : State) : exec i s = .next (s.onVm fun v => v.effect s.cfg i) := by
  cases i <;> rfl

/-- exec on a block whose VM at `cur` is `v`. -/
theorem exec_on {s : State} {v : Vm} (h : s.vm? = some v) (i : Instr) :
    ∃ t, exec i s = .next t ∧ s.SameBut t s.cur ∧ t.vm? = some (v.effect s.cfg i) :=
  ⟨_, exec_eq i s, s.sameBut_onVm _, by simp [h]⟩

/-- A load, said once: what it leaves in every field (R110 to R112). -/
@[simp] theorem Vm.loadInto_pc (v : Vm) (dr : RegIdx) (ea : Word) : (v.loadInto dr ea).pc = v.pc := by simp [Vm.loadInto]
@[simp] theorem Vm.loadInto_run (v : Vm) (dr : RegIdx) (ea : Word) : (v.loadInto dr ea).run = v.run := by simp [Vm.loadInto]
@[simp] theorem Vm.loadInto_mem (v : Vm) (dr : RegIdx) (ea : Word) : (v.loadInto dr ea).mem = (v.afterRead ea).mem := by
  simp [Vm.loadInto]
@[simp] theorem Vm.loadInto_pending (v : Vm) (dr : RegIdx) (ea : Word) :
    (v.loadInto dr ea).pending = (v.afterRead ea).pending := by simp [Vm.loadInto]
@[simp] theorem Vm.loadInto_flags (v : Vm) (dr : RegIdx) (ea : Word) :
    (v.loadInto dr ea).flags = flagsOf (v.memRead ea) := by simp [Vm.loadInto]
@[simp] theorem Vm.loadInto_blockedInput (v : Vm) (dr : RegIdx) (ea : Word) :
    (v.loadInto dr ea).blockedInput = v.blockedInput := by simp [Vm.loadInto]
@[simp] theorem Vm.loadInto_blockedOutput (v : Vm) (dr : RegIdx) (ea : Word) :
    (v.loadInto dr ea).blockedOutput = v.blockedOutput := by simp [Vm.loadInto]
@[simp] theorem Vm.loadInto_initialised (v : Vm) (dr : RegIdx) (ea : Word) :
    (v.loadInto dr ea).initialised = v.initialised := by simp [Vm.loadInto]
@[simp] theorem Vm.reg_loadInto (v : Vm) (dr q : RegIdx) (ea : Word) :
    (v.loadInto dr ea).reg q = if q = dr then v.memRead ea else v.reg q := by simp [Vm.loadInto]

/-- No instruction touches the blocked bits or the mark that the VM has been Reset. -/
theorem Vm.effect_sameBlocked (v : Vm) (cfg : Config) (i : Instr) : v.SameBlocked (v.effect cfg i) := by
  cases i <;> simp [Vm.SameBlocked, Vm.effect, Vm.afterIndirect]
  all_goals split <;> simp

/-- The execution state after an instruction. -/
theorem Vm.effect_run (v : Vm) (cfg : Config) (i : Instr) : (v.effect cfg i).run = (newRunState i).getD v.run := by
  cases i <;> simp [Vm.effect, newRunState, Vm.afterIndirect]
  all_goals split <;> rfl

/-- No instruction breaks a memory's canonical form. -/
theorem Vm.effect_memory {v : Vm} (h : v.mem.wf = true) (cfg : Config) (i : Instr) : (v.effect cfg i).mem.wf = true := by
  cases i <;> simp [Vm.effect, Vm.afterIndirect, h, Memory.write_wf, Vm.afterRead_memory]
  split <;> exact h

/-- Every instruction leaves the flags as they were or sets them from a result (R27, R28). -/
theorem Vm.effect_flags (v : Vm) (cfg : Config) (i : Instr) :
    (v.effect cfg i).flags = v.flags ∨ ∃ w, (v.effect cfg i).flags = flagsOf w := by
  cases i <;> simp [Vm.effect, Vm.afterIndirect]
  case br => left; split <;> rfl
  case jsr => unfold Vm.link; split <;> simp
  case jsrr => unfold Vm.link; split <;> simp

/-- What holds of every VM holds after an instruction of a Running VM. -/
theorem Vm.effect_good {v : Vm} (h : v.Good) (hr : v.run = .running) (cfg : Config) (i : Instr) : (v.effect cfg i).Good where
  memory := Vm.effect_memory h.memory cfg i
  flags hi := by
    rw [(v.effect_sameBlocked cfg i).2.2] at hi
    rcases v.effect_flags cfg i with e | ⟨w, e⟩
    · rw [e]; exact h.flags hi
    · rw [e]; exact flagsOf_legal w
  bare hi := by
    rw [(v.effect_sameBlocked cfg i).2.2] at hi
    rw [h.bare hi] at hr; cases hr

theorem Vm.afterFetch_good {v : Vm} (h : v.Good) : v.afterFetch.Good where
  memory := by simp [Vm.afterRead_memory h.memory]
  flags hi := by simpa using h.flags (by simpa using hi)
  bare hi := by simpa using h.bare (by simpa using hi)

end Sys2Proof.Machine
end

