-- ==== Sys2Proof/Laws/PerInstr.lean ====
section
/-! SUPPORT. Laws stated per instruction. OpcodeField: bits [15:12] of an instruction's word are its row's opcode
(30_encoding.md R61, R62). -/

namespace Sys2Proof.Laws.OpcodeField

/-- The opcode field of the instruction's word is that of its row in opcode_table.json. -/
def Statement (i : Instr) : Prop := field (encode i) 12 4 = field (rowMatch i) 12 4

theorem of_value {i : Instr} (h : wordValue i / 4096 % 16 = (rowMatch i).toNat / 4096 % 16) : Statement i := by
  apply BitVec.eq_of_toNat_eq
  simpa [toNat_field, toNat_encode] using h

theorem br (cond : CondBits) (off : BitVec 9) : Statement (.br cond off) := of_value (by simp [wordValue, rowMatch]; omega)
theorem addReg (dr sr1 sr2 : RegIdx) : Statement (.addReg dr sr1 sr2) := of_value (by simp [wordValue, rowMatch]; omega)
theorem addImm (dr sr1 : RegIdx) (imm : BitVec 5) : Statement (.addImm dr sr1 imm) := of_value (by simp [wordValue, rowMatch]; omega)
theorem ld (dr : RegIdx) (off : BitVec 9) : Statement (.ld dr off) := of_value (by simp [wordValue, rowMatch]; omega)
theorem st (sr : RegIdx) (off : BitVec 9) : Statement (.st sr off) := of_value (by simp [wordValue, rowMatch]; omega)
theorem jsr (off : BitVec 11) : Statement (.jsr off) := of_value (by simp [wordValue, rowMatch]; omega)
theorem jsrr (base : RegIdx) : Statement (.jsrr base) := of_value (by simp [wordValue, rowMatch]; omega)
theorem andReg (dr sr1 sr2 : RegIdx) : Statement (.andReg dr sr1 sr2) := of_value (by simp [wordValue, rowMatch]; omega)
theorem andImm (dr sr1 : RegIdx) (imm : BitVec 5) : Statement (.andImm dr sr1 imm) := of_value (by simp [wordValue, rowMatch]; omega)
theorem ldr (dr base : RegIdx) (off : BitVec 6) : Statement (.ldr dr base off) := of_value (by simp [wordValue, rowMatch]; omega)
theorem str (sr base : RegIdx) (off : BitVec 6) : Statement (.str sr base off) := of_value (by simp [wordValue, rowMatch]; omega)
theorem rti : Statement .rti := of_value (by rfl)
theorem not (dr sr : RegIdx) : Statement (.not dr sr) := of_value (by simp [wordValue, rowMatch]; omega)
theorem ldi (dr : RegIdx) (off : BitVec 9) : Statement (.ldi dr off) := of_value (by simp [wordValue, rowMatch]; omega)
theorem sti (sr : RegIdx) (off : BitVec 9) : Statement (.sti sr off) := of_value (by simp [wordValue, rowMatch]; omega)
theorem jmp (base : RegIdx) : Statement (.jmp base) := of_value (by simp [wordValue, rowMatch]; omega)
theorem res : Statement .res := of_value (by rfl)
theorem lea (dr : RegIdx) (off : BitVec 9) : Statement (.lea dr off) := of_value (by simp [wordValue, rowMatch]; omega)
theorem trap (v : BitVec 8) : Statement (.trap v) := of_value (by simp [wordValue, rowMatch]; omega)
theorem getc : Statement .getc := of_value (by rfl)
theorem out : Statement .out := of_value (by rfl)
theorem puts : Statement .puts := of_value (by rfl)
theorem in_ : Statement .in_ := of_value (by rfl)
theorem putsp : Statement .putsp := of_value (by rfl)
theorem halt : Statement .halt := of_value (by rfl)

end Sys2Proof.Laws.OpcodeField
end

