-- ==== Sys2Proof/Laws/Step.lean ====
section
/-! SUPPORT. What a step can do to a VM, said once (`step_move`), and what each of the block's operations leaves. -/

namespace Sys2Proof.Machine

/-- Everything one step can do to VM `j`, which is `v` before it. -/
inductive State.Move (s : State) (j : Nat) (v : Vm) : Vm → Prop where
  | same : State.Move s j v v
  | instr (turn : s.engineTurn = true) (here : s.cur = j) (running : v.run = .running) :
      State.Move s j v (v.afterFetch.effect s.cfg v.nextInstr)
  | service (n : Byte) (r : Served) (served : v.trapService s.cfg s.draws n = some r) (who : s.Serves j v n) :
      State.Move s j v r.vm
  | block (budget : Nat) (c : Caller) (phase : s.activity = .tick (.run budget) c) (here : s.cur = j)
      (returned : s.engineTurn = false) : State.Move s j v v.block
  | reset (idle : s.activity = .idle) (call : s.script.head? = some (.reset j)) : State.Move s j v v.reset
  | load (img : Image) (v' : Vm) (idle : s.activity = .idle) (call : s.script.head? = some (.load j img))
      (loaded : v.load img = some v') : State.Move s j v v'
  | setKey (k : Word) (idle : s.activity = .idle) (call : s.script.head? = some (.setKey j k)) :
      State.Move s j v (v.setKey k)
  | key (k : Word) (round : s.RoundBegins) (owner : s.owner = some j) (polled : s.polledKey = some k)
      (other : k ≠ s.cfg.escapeKey) : State.Move s j v (v.deliverKey k).clearOutput
  | clear (round : s.RoundBegins) (owner : (s.keyStep s.polledKey).owner = some j) : State.Move s j v v.clearOutput

/-- Slot `slot'` is what the step made of `slot` at index `j`: one move of its VM, marks kept or counted. -/
structure State.SlotMove (s : State) (j : Nat) (slot slot' : Slot) : Prop where
  move : s.Move j slot.vm slot'.vm
  joined : slot'.joined = slot.joined
  counted : slot.counted = true → slot'.counted = true

/-- Every entry there was is still there, moved at most once. -/
def State.Moves (s t : State) : Prop :=
  ∀ (j : Nat) (slot : Slot), s.vms[j]? = some slot → ∃ slot', t.vms[j]? = some slot' ∧ s.SlotMove j slot slot'

theorem State.SlotMove.refl (s : State) (j : Nat) (slot : Slot) : s.SlotMove j slot slot :=
  ⟨.same, rfl, id⟩

theorem State.moves_of_vms_eq {s t : State} (h : t.vms = s.vms) : s.Moves t := fun j slot hj =>
  ⟨slot, by rw [h]; exact hj, .refl s j slot⟩

/-- A change of one VM by a move of the step is a move of the block. -/
theorem State.moves_onVmAt {s t : State} {i : Nat} {f : Vm → Vm} (h : t.vms = (s.onVmAt i f).vms)
    (hm : ∀ v, s.vmAt i = some v → s.Move i v (f v)) : s.Moves t := by
  intro j slot hj
  rw [h, State.getElem?_onVmAt]
  by_cases hij : i = j
  · subst hij
    simp only [if_pos, hj, Option.map_some]
    exact ⟨_, rfl, hm slot.vm (by simp [State.vmAt, hj]), rfl, id⟩
  · rw [if_neg hij]
    exact ⟨slot, hj, .refl s j slot⟩

/-- Counting a stopped VM changes a mark, not a VM. -/
theorem State.getElem?_account (s : State) (b : Bool) (j : Nat) (slot : Slot) (h : s.vms[j]? = some slot) :
    ∃ c, (s.account b).vms[j]? = some { slot with counted := c } ∧ (slot.counted = true → c = true) := by
  unfold State.account
  split
  · exact ⟨slot.counted, h, id⟩
  · split
    · simp only [State.markCounted, List.getElem?_modify, h]
      split
      · exact ⟨true, rfl, fun _ => rfl⟩
      · exact ⟨slot.counted, rfl, id⟩
    · exact ⟨slot.counted, h, id⟩

theorem State.getElem?_tickReturn (s : State) (caller : Caller) (b : Bool) (j : Nat) (slot : Slot)
    (h : s.vms[j]? = some slot) :
    ∃ c, (s.tickReturn caller b).vms[j]? = some { slot with counted := c } ∧ (slot.counted = true → c = true) := by
  cases caller with
  | host => exact ⟨slot.counted, h, id⟩
  | round inScheduler =>
    obtain ⟨c, h', hc⟩ := s.getElem?_account b j slot h
    refine ⟨c, ?_, hc⟩
    simpa [State.tickReturn] using h'

/-- The return of a Tick adds marks only. -/
theorem State.moves_tickReturn {s t : State} (h : s.Moves t) (caller : Caller) (b : Bool) :
    s.Moves (t.tickReturn caller b) := by
  intro j slot hj
  obtain ⟨slot', hs, hm⟩ := h j slot hj
  obtain ⟨c, hc, hcount⟩ := t.getElem?_tickReturn caller b j slot' hs
  exact ⟨_, hc, hm.move, hm.joined, fun h' => hcount (hm.counted h')⟩

/-- What `Trap(n)` on VM `i` answers with, said once (R150). -/
theorem trapAt_eq_next {i : Nat} {n : Byte} {s t : State} (h : trapAt i n s = .next t) :
    ∃ v r, s.vmAt i = some v ∧ v.trapService s.cfg s.draws n = some r ∧
      t = ((s.onVmAt i fun _ => r.vm).emit r.events).drawn r.draws := by
  unfold trapAt at h
  split at h
  · cases h
  · split at h
    · cases h
    · exact ⟨_, _, ‹_›, ‹_›, by simpa using h.symm⟩

theorem State.moves_trapAt {i : Nat} {n : Byte} {s s' t : State} (h : trapAt i n s' = .next t)
    (hv : s'.vms = s.vms) (hc : s'.cfg = s.cfg) (hd : s'.draws = s.draws)
    (who : ∀ v, s.vmAt i = some v → s.Serves i v n) : s.Moves t := by
  obtain ⟨v, r, h1, h2, rfl⟩ := trapAt_eq_next h
  have hva : s.vmAt i = some v := by rw [← h1]; simp [State.vmAt, hv]
  refine State.moves_onVmAt (i := i) (f := fun _ => r.vm) ?_ ?_
  · simp [State.onVmAt, hv]
  · intro v' hv'
    rw [hva] at hv'; cases hv'
    exact .service n r (by rw [← hc, ← hd]; exact h2) (who v hva)

/-- One iteration of the engine's loop answers a next state, and what it is (R73, R77). -/
theorem runInstr_eq (v : Vm) (s : State) :
    runInstr v s = .next ((s.afterFetch.onVm fun v' => v'.effect s.cfg v.nextInstr).spendTick) := by
  simp [runInstr, exec_eq]

theorem State.vms_runInstr {v : Vm} {s : State} (h : s.vm? = some v) :
    ((s.afterFetch.onVm fun v' => v'.effect s.cfg v.nextInstr).spendTick).vms
      = (s.onVmAt s.cur fun _ => v.afterFetch.effect s.cfg v.nextInstr).vms := by
  apply List.ext_getElem?
  intro j
  simp only [State.spendTick_vms, State.onVm, State.getElem?_onVmAt, State.afterFetch, State.onVmAt_cur]
  by_cases hj : s.cur = j
  · subst hj
    simp only [State.vm?, State.vmAt] at h
    cases hs : s.vms[s.cur]? with
    | none => simp [hs] at h
    | some slot => simp [hs] at h; simp [h]
  · simp [hj]

theorem State.moves_runInstr {s t : State} {v : Vm} (h : runInstr v s = .next t) (hv : s.vm? = some v)
    (turn : s.engineTurn = true) (hr : v.run = .running) : s.Moves t := by
  rw [runInstr_eq] at h
  cases h
  refine State.moves_onVmAt (i := s.cur) (State.vms_runInstr hv) ?_
  intro v' hv'
  rw [State.vm?, hv'] at hv; cases hv
  exact .instr turn rfl hr

/-- The engine's turn, taken apart. -/
theorem State.engineTurn_iff (s : State) :
    s.engineTurn = true ↔ s.activity.inEngine = true ∧ ∃ v, s.vm? = some v ∧ v.run = .running := by
  unfold State.engineTurn
  cases h : s.vm? <;> simp

/-! ### The start of a round -/

theorem State.onOwner_of_none {s : State} (h : s.owner = none) (f : Vm → Vm) : s.onOwner f = s := by
  simp [State.onOwner, h]

theorem State.onOwner_of_some {s : State} {o : Nat} (h : s.owner = some o) (f : Vm → Vm) :
    s.onOwner f = s.onVmAt o f := by
  simp [State.onOwner, h]

theorem State.vms_beginRound (s : State) (b : Bool) :
    (s.beginRound b).vms = ((s.afterPoll.keyStep s.polledKey).onOwner Vm.clearOutput).vms := by
  unfold State.beginRound; simp only []; split <;> rfl

theorem State.onVmAt_onVmAt_vms (s : State) (i : Nat) (f g : Vm → Vm) :
    ((s.onVmAt i f).onVmAt i g).vms = (s.onVmAt i fun v => g (f v)).vms := by
  apply List.ext_getElem?
  intro j
  simp only [State.getElem?_onVmAt]
  split
  · cases s.vms[j]? <;> rfl
  · rfl

theorem State.moves_beginRound {s s' : State} (b : Bool) (hb : s.RoundBegins) (hv : s'.vms = s.vms)
    (ho : s'.owner = s.owner) (hk : s'.keys = s.keys) (hc : s'.cfg = s.cfg) : s.Moves (s'.beginRound b) := by
  have hp : s'.polledKey = s.polledKey := by simp [State.polledKey, hk]
  -- the step's own view of the owner after the key step
  have howner : (s'.afterPoll.keyStep s'.polledKey).owner = (s.keyStep s.polledKey).owner := by
    rw [hp]
    cases hk' : s.polledKey with
    | none => simpa [State.keyStep] using ho
    | some k =>
      simp only [State.keyStep, State.afterPoll_cfg, hc]
      split
      · simp [ho, hv]
      · simpa using ho
  have plain : ∀ t : State, t.vms = s.vms → t.owner = (s.keyStep s.polledKey).owner →
      s.Moves (t.onOwner Vm.clearOutput) := by
    intro t htv hto
    cases h : t.owner with
    | none => rw [State.onOwner_of_none h]; exact State.moves_of_vms_eq htv
    | some o =>
      rw [State.onOwner_of_some h]
      refine State.moves_onVmAt (i := o) (f := Vm.clearOutput) (by simp [State.onVmAt, htv]) ?_
      intro v _
      exact .clear hb (by rw [← hto, h])
  suffices h : s.Moves ((s'.afterPoll.keyStep s'.polledKey).onOwner Vm.clearOutput) by
    intro j slot hj
    rw [State.vms_beginRound]
    exact h j slot hj
  cases hk' : s'.polledKey with
  | none =>
    rw [hk'] at howner
    exact plain _ (by simpa [State.keyStep] using hv) howner
  | some k =>
    rw [hk'] at howner
    by_cases he : k = s'.cfg.escapeKey
    · exact plain _ (by simpa [State.keyStep, he] using hv) howner
    · have hks : s'.afterPoll.keyStep (some k) = s'.afterPoll.onOwner (fun v => v.deliverKey k) := by
        simp [State.keyStep, he]
      rw [hks]
      cases h : s'.owner with
      | none =>
        rw [State.onOwner_of_none (s := s'.afterPoll) (by simpa using h), State.onOwner_of_none (by simpa using h)]
        exact State.moves_of_vms_eq (by simpa using hv)
      | some o =>
        rw [State.onOwner_of_some (s := s'.afterPoll) (o := o) (by simpa using h),
          State.onOwner_of_some (o := o) (by simpa using h)]
        refine State.moves_onVmAt (i := o) (f := fun v => (v.deliverKey k).clearOutput) ?_ ?_
        · rw [State.onVmAt_onVmAt_vms]; simp [State.onVmAt, hv]
        · intro v _
          exact .key k hb (by rw [← ho, h]) (by rw [← hp, hk']) (by rw [← hc]; exact he)

/-- A mark that a change of one VM keeps is kept by a change of the owner's VM. -/
theorem State.marks_onOwner {α : Type} (mark : Slot → α) (hm : ∀ (slot : Slot) (v : Vm), mark { slot with vm := v } = mark slot)
    (s : State) (f : Vm → Vm) (j : Nat) : (s.onOwner f).vms[j]?.map mark = s.vms[j]?.map mark := by
  cases h : s.owner with
  | none => rw [State.onOwner_of_none h]
  | some o =>
    rw [State.onOwner_of_some h, State.getElem?_onVmAt]
    split
    · cases s.vms[j]? <;> simp [hm]
    · rfl

/-- The start of a round keeps the marks of every VM (R187). -/
theorem State.marks_beginRound {α : Type} (mark : Slot → α)
    (hm : ∀ (slot : Slot) (v : Vm), mark { slot with vm := v } = mark slot) (s : State) (b : Bool) (j : Nat) :
    (s.beginRound b).vms[j]?.map mark = s.vms[j]?.map mark := by
  rw [State.vms_beginRound, State.marks_onOwner mark hm]
  unfold State.keyStep
  split
  · rfl
  · split
    · rfl
    · exact State.marks_onOwner mark hm _ _ j

theorem State.vms_length_beginRound (s : State) (b : Bool) : (s.beginRound b).vms.length = s.vms.length := by
  have h (t : State) (f : Vm → Vm) : (t.onOwner f).vms.length = t.vms.length := by
    unfold State.onOwner; split <;> simp
  rw [State.vms_beginRound, h]
  unfold State.keyStep
  split
  · rfl
  · split
    · rfl
    · exact h _ _

theorem State.next_beginRound {s : State} (h : s.vms ≠ []) (b : Bool) :
    (s.beginRound b).activity = .tick .service (.round b) ∧ (s.beginRound b).cur = 0 := by
  have hn : ¬ ((s.afterPoll.keyStep s.polledKey).onOwner Vm.clearOutput).vms.isEmpty = true := by
    rw [← State.vms_beginRound s b, List.isEmpty_iff, ← List.length_eq_zero_iff, State.vms_length_beginRound,
      List.length_eq_zero_iff]
    exact h
  unfold State.beginRound
  simp only [if_neg hn, and_self]

/-! ### The step -/

/-- Appending a VM leaves the entries there were. -/
theorem State.moves_append {s t : State} {slot : Slot} (h : t.vms = s.vms ++ [slot]) : s.Moves t := by
  intro j old hj
  refine ⟨old, ?_, .refl s j old⟩
  rw [h, List.getElem?_append_left (by simpa using (List.getElem?_eq_some_iff.mp hj).1)]
  exact hj

theorem moves_hostCall {s t : State} {c : HostCall} {rest : List HostCall} (hi : s.activity = .idle)
    (hs : s.script = c :: rest) (h : hostCall c { s with script := rest } = .next t) : s.Moves t := by
  have hh : s.script.head? = some c := by simp [hs]
  cases c with
  | construct =>
    simp only [hostCall, hostConstruct] at h
    split at h
    · cases h
    · cases h; exact State.moves_append rfl
  | addVm images =>
    simp only [hostCall, addVm] at h
    split at h
    · cases h
    · split at h
      · cases h
      · cases h; exact State.moves_append rfl
  | reset i =>
    simp only [hostCall, onVmCall] at h
    split at h
    · cases h
    · cases h
      exact State.moves_onVmAt (i := i) (f := Vm.reset) rfl fun v _ => .reset hi hh
  | load i img =>
    simp only [hostCall, hostLoad] at h
    split at h
    · cases h
    · rename_i v hv
      split at h
      · cases h
      · rename_i v' hl
        cases h
        refine State.moves_onVmAt (i := i) (f := fun _ => v') rfl fun w hw => ?_
        have : w = v := Option.some.inj (hw.symm.trans hv)
        subst this
        exact .load img v' hi hh hl
  | setKey i k =>
    simp only [hostCall, onVmCall] at h
    split at h
    · cases h
    · cases h
      exact State.moves_onVmAt (i := i) (f := fun v => v.setKey k) rfl fun v _ => .setKey k hi hh
  | runFor i ticks =>
    simp only [hostCall, beginOn] at h
    split at h
    · cases h
    · cases h; exact State.moves_of_vms_eq rfl
  | trap i n =>
    simp only [hostCall, hostTrap] at h
    obtain ⟨u, hu, rfl⟩ := andThen_eq_next h
    have hm : s.Moves u := State.moves_trapAt hu rfl rfl rfl fun v _ => .inr ⟨hi, n, hh, rfl⟩
    intro j slot hj
    obtain ⟨slot', h1, h2⟩ := hm j slot hj
    refine ⟨slot', ?_, h2⟩
    split
    · exact h1
    · simpa using h1
  | tick i =>
    simp only [hostCall, beginOn] at h
    split at h
    · cases h
    · cases h; exact State.moves_of_vms_eq rfl
  | inspect i q =>
    simp only [hostCall, hostInspect] at h
    split at h
    · cases h
    · split at h
      · cases h; exact State.moves_of_vms_eq rfl
      · cases h
  | cycleOwner => simp only [hostCall] at h; cases h; exact State.moves_of_vms_eq rfl
  | round =>
    simp only [hostCall, startRounds] at h
    split at h
    · cases h; exact State.moves_beginRound false (.inr ⟨hi, hh⟩) rfl rfl rfl rfl
    · cases h
  | runScheduler =>
    simp only [hostCall, startRounds] at h
    split at h
    · cases h; exact State.moves_of_vms_eq rfl
    · cases h
  | drive i =>
    simp only [hostCall, beginOn] at h
    split at h
    · cases h
    · cases h; exact State.moves_of_vms_eq rfl

/-- WHAT A STEP CAN DO, said once: every VM there was is still there, at its index, moved at most once. -/
theorem step_moves {s t : State} (h : step s = .next t) : s.Moves t := by
  unfold step at h
  split at h
  · -- the host's move
    rename_i hi
    unfold hostStep at h
    split at h
    · cases h; exact State.moves_of_vms_eq rfl
    · exact moves_hostCall hi ‹_› h
  · -- the boot loop
    rename_i ha
    unfold driveStep at h
    split at h
    · cases h
    · rename_i v hv
      split at h
      · rename_i hr
        exact State.moves_runInstr h hv ((State.engineTurn_iff s).mpr ⟨by rw [ha]; rfl, v, hv, hr⟩) hr
      · rename_i n hr
        refine State.moves_trapAt h rfl rfl rfl fun w hw => .inl ⟨rfl, ?_, .inl ha⟩
        rw [State.vm?, hw] at hv; cases hv; exact hr
      · cases h; exact State.moves_of_vms_eq rfl
  · -- a host's RunFor
    unfold runForStep at h
    split at h
    · cases h
    · rename_i v hv
      split at h
      · rename_i ht
        obtain ⟨_, w, hw, hr⟩ := (State.engineTurn_iff s).mp ht
        rw [hv] at hw; cases hw
        exact State.moves_runInstr h hv ht hr
      · cases h; exact State.moves_of_vms_eq rfl
  · -- a Tick
    rename_i phase caller ha
    cases phase with
    | service =>
      simp only [tickStep, tickService] at h
      split at h
      · cases h
      · rename_i v hv
        split at h
        · cases h; exact State.moves_tickReturn (State.moves_of_vms_eq rfl) _ _
        · cases h; exact State.moves_of_vms_eq rfl
        · rename_i n hr
          split at h
          · rename_i hu
            obtain ⟨u, hu', rfl⟩ := andThen_eq_next h
            have hm : s.Moves u := State.moves_trapAt hu' rfl rfl rfl fun w hw => by
              rw [State.vm?, hw] at hv; cases hv
              exact .inl ⟨rfl, hr, .inr ⟨caller, ha, hu⟩⟩
            intro j slot hj
            exact hm j slot hj
          · cases h; exact State.moves_tickReturn (State.moves_of_vms_eq rfl) _ _
    | run budget =>
      simp only [tickStep, tickRun] at h
      split at h
      · cases h
      · rename_i v hv
        split at h
        · rename_i ht
          obtain ⟨_, w, hw, hr⟩ := (State.engineTurn_iff s).mp ht
          rw [hv] at hw; cases hw
          exact State.moves_runInstr h hv ht hr
        · rename_i ht
          cases h
          refine State.moves_tickReturn ?_ _ _
          exact State.moves_onVmAt (i := s.cur) (f := Vm.block) rfl fun v _ =>
            .block budget caller ha rfl (by simpa using ht)
  · -- the scheduler's loop
    rename_i ha
    unfold scheduleStep at h
    split at h
    · cases h; exact State.moves_of_vms_eq rfl
    · rename_i hn
      cases h; exact State.moves_beginRound true (.inl ⟨ha, hn⟩) rfl rfl rfl rfl

/-- One VM's move. -/
theorem step_move {s t : State} (h : step s = .next t) {j : Nat} {v : Vm} (hv : s.vmAt j = some v) :
    ∃ v', t.vmAt j = some v' ∧ s.Move j v v' := by
  obtain ⟨slot, hs, rfl⟩ : ∃ slot, s.vms[j]? = some slot ∧ slot.vm = v := by simpa [State.vmAt] using hv
  obtain ⟨slot', h1, h2⟩ := step_moves h j slot hs
  exact ⟨slot'.vm, by simp [State.vmAt, h1], h2.move⟩

/-- The block as the start of a round finds it: a round called alone has been taken from the script and closes the
collection. -/
def State.atRound (s : State) (loop : Bool) : State :=
  { s with script := if loop then s.script else s.script.tail, started := s.started || !loop }

/-- A step that begins a round, said once (R183): what it answers, and what it leaves of the scheduler and the streams. -/
theorem step_of_roundRuns {s : State} {loop : Bool} (h : s.RoundRuns loop) (hv : s.vms ≠ []) :
    step s = .next ((s.atRound loop).beginRound loop) ∧ s.RoundStarted ((s.atRound loop).beginRound loop) loop := by
  refine ⟨?_, ?_⟩
  · rcases h with ⟨rfl, ha, hr⟩ | ⟨rfl, ⟨ha, hs⟩, hj⟩
    · have he : s.atRound true = s := by cases s; simp [State.atRound]
      simp [step, ha, scheduleStep, hr, he]
    · cases hsc : s.script with
      | nil => simp [hsc] at hs
      | cons c rest =>
        simp only [hsc, List.head?_cons, Option.some.injEq] at hs
        subst hs
        have hall : s.vms.all Slot.joined = true := by simpa using hj
        simp [step, ha, hostStep, hsc, hostCall, startRounds, hall, State.atRound]
  · exact {
      keys := by simp [State.atRound]
      next := State.next_beginRound (s := s.atRound loop) hv loop
      running := by simp [State.atRound]
      count := State.vms_length_beginRound (s.atRound loop) loop
      counted := State.marks_beginRound Slot.counted (fun _ _ => rfl) (s.atRound loop) loop
      joined := State.marks_beginRound Slot.joined (fun _ _ => rfl) (s.atRound loop) loop
      cfg := by simp [State.atRound]
      output := by simp [State.atRound]
      replies := by simp [State.atRound]
      draws := by simp [State.atRound]
      script := by simp [State.atRound]
      started := by simp [State.atRound] }

/-- A run of the machine behind the host's interface, one step at a time. -/
theorem core_run_succ {s t : State} (k : Nat) (h : step s = .next t) :
    Sys2Proof.core.run (k + 1) s = Sys2Proof.core.run k t := by
  have core (M : Host.Core) (k : Nat) (s s' : M.State) (h : M.step s = .next s') : M.run (k + 1) s = M.run k s' := by
    rw [Host.Core.run, h]
  exact core Sys2Proof.core k s t h

/-- A step that runs an instruction (R73): exec of the decoded word, after the fetch, and one tick spent. -/
theorem step_of_engineTurn {s : State} {v : Vm} (h : s.engineTurn = true) (hv : s.vm? = some v) :
    step s = andThen (exec v.nextInstr s.afterFetch) State.spendTick := by
  obtain ⟨ha, w, hw, hr⟩ := (State.engineTurn_iff s).mp h
  rw [hv] at hw; cases hw
  unfold step
  split
  · rename_i e; rw [e] at ha; cases ha
  · simp [driveStep, hv, hr, runInstr]
  · simp [runForStep, hv, h, runInstr]
  · rename_i phase c e
    cases phase with
    | service => rw [e] at ha; cases ha
    | run b => simp [tickStep, tickRun, hv, h, runInstr]
  · rename_i e; rw [e] at ha; cases ha

end Sys2Proof.Machine
end

