-- ==== Sys2Proof/Laws/Services.lean ====
section
/-! SUPPORT. What the trap dispatcher can do to a VM, said once (44_trap_services.md R150 to R157). -/

namespace Sys2Proof.Machine

/-- What every service leaves as it was, and what it may change: R0 and the pending key (GETC, IN), the execution state,
and flags only with `TRAP_SETS_FLAGS` (R150). -/
structure Vm.ServedFrom (v : Vm) (cfg : Config) (v' : Vm) : Prop where
  pc : v'.pc = v.pc
  mem : v'.mem = v.mem
  blocked : v.SameBlocked v'
  regs : v.SameRegsBut v' 0
  flags : v'.flags = v.flags ∨ (cfg.trapSetsFlags = true ∧ ∃ w, v'.flags = flagsOf w)
  run : v'.run = .running ∨ v'.run = .stopped

theorem Vm.receiveKey_servedFrom (v : Vm) (cfg : Config) (w : Word) : v.resume.ServedFrom cfg (v.resume.receiveKey cfg w) where
  pc := by simp
  mem := by simp
  blocked := by simp [Vm.SameBlocked]
  regs r h := by simp [h]
  flags := by
    simp only [Vm.receiveKey]
    split
    · exact .inr ⟨‹_›, w, rfl⟩
    · exact .inl rfl
  run := by simp

theorem Vm.resume_servedFrom (v : Vm) (cfg : Config) : v.resume.ServedFrom cfg v.resume where
  pc := rfl
  mem := rfl
  blocked := ⟨rfl, rfl, rfl⟩
  regs _ _ := rfl
  flags := .inl rfl
  run := .inl rfl

theorem Vm.stop_servedFrom (v : Vm) (cfg : Config) : v.resume.ServedFrom cfg v.resume.stop where
  pc := rfl
  mem := rfl
  blocked := ⟨rfl, rfl, rfl⟩
  regs _ _ := rfl
  flags := .inl rfl
  run := .inr rfl

/-- Everything the arms of the dispatcher can do. -/
theorem serviceFor_servedFrom {cfg : Config} {draw : Nat} {v : Vm} {n : Byte} {r : Served}
    (h : serviceFor cfg draw v.resume n = some r) : v.resume.ServedFrom cfg r.vm := by
  unfold serviceFor at h
  split at h
  · cases h; exact v.receiveKey_servedFrom cfg _
  · cases h; exact v.resume_servedFrom cfg
  · unfold servicePuts at h
    split at h
    · cases h; exact v.resume_servedFrom cfg
    · cases h
  · cases h; exact v.receiveKey_servedFrom cfg _
  · unfold servicePutsp at h
    split at h
    · cases h; exact v.resume_servedFrom cfg
    · cases h
  · cases h; exact v.stop_servedFrom cfg
  · cases h; exact v.resume_servedFrom cfg

/-- Everything `Trap(n)` can do to a VM (R150). -/
theorem Vm.trapService_cases {v : Vm} {cfg : Config} {draw : Nat} {n : Byte} {r : Served}
    (h : v.trapService cfg draw n = some r) :
    (v.run = .stopped ∧ r = serviceOther v) ∨
      (v.run ≠ .stopped ∧ serviceFor cfg draw v.resume n = some r ∧ v.resume.ServedFrom cfg r.vm) := by
  unfold Vm.trapService at h
  split at h
  · cases h; exact .inl ⟨‹_›, rfl⟩
  · exact .inr ⟨fun e => by simp_all, h, serviceFor_servedFrom h⟩

/-- A service keeps what holds of every VM. -/
theorem Vm.trapService_good {v : Vm} {cfg : Config} {draw : Nat} {n : Byte} {r : Served}
    (h : v.trapService cfg draw n = some r) (hv : v.Good) : r.vm.Good := by
  rcases Vm.trapService_cases h with ⟨_, rfl⟩ | ⟨hr, _, hs⟩
  · exact hv
  · refine ⟨by rw [hs.mem]; exact hv.memory, fun hi => ?_, fun hi => ?_⟩
    · rcases hs.flags with e | ⟨_, w, e⟩
      · rw [e]; exact hv.flags (by rw [← hi, hs.blocked.2.2]; rfl)
      · rw [e]; exact flagsOf_legal w
    · exact absurd (hv.bare (by rw [← hi, hs.blocked.2.2]; rfl)) hr

end Sys2Proof.Machine
end

