-- ==== Sys2Proof/Tests/Slice0.lean ====
section
/-! SUPPORT. The model's own tests: ill-formed terms, one word of each row decoded, one step on small states (expected
values from 95_test_vectors.md), and a witness for the hypotheses of each statement. -/

namespace Sys2Proof.Tests

open Sys2Proof Sys2Proof.Machine

/-! ### WellFormed refuses the terms that stand for no word -/

theorem test_trap20_ill_formed : (Instr.trap 0x20#8).wellFormed = false := by decide
theorem test_trap21_ill_formed : (Instr.trap 0x21#8).wellFormed = false := by decide
theorem test_trap22_ill_formed : (Instr.trap 0x22#8).wellFormed = false := by decide
theorem test_trap23_ill_formed : (Instr.trap 0x23#8).wellFormed = false := by decide
theorem test_trap24_ill_formed : (Instr.trap 0x24#8).wellFormed = false := by decide
theorem test_trap25_ill_formed : (Instr.trap 0x25#8).wellFormed = false := by decide
theorem test_trap1F_trap26_well_formed :
    (Instr.trap 0x1F#8).wellFormed = true ∧ (Instr.trap 0x26#8).wellFormed = true := by decide

/-! ### Decoding: one word of each constructor, bit by bit from the formats of R64 -/

theorem test_decode_br : decode 0b0000_101_100000001#16 = .br 0b101#3 0b100000001#9 := by decide
theorem test_decode_addReg : decode 0b0001_010_000_0_00_001#16 = .addReg 2 0 1 := by decide
theorem test_decode_addImm : decode 0b0001_010_001_1_11011#16 = .addImm 2 1 0b11011#5 := by decide
theorem test_decode_ld : decode 0b0010_001_000000101#16 = .ld 1 5#9 := by decide
theorem test_decode_st : decode 0b0011_110_111111110#16 = .st 6 0b111111110#9 := by decide
theorem test_decode_jsr : decode 0b0100_1_10000000011#16 = .jsr 0b10000000011#11 := by decide
theorem test_decode_jsrr : decode 0b0100_0_00_011_000000#16 = .jsrr 3 := by decide
theorem test_decode_andReg : decode 0b0101_011_001_0_00_010#16 = .andReg 3 1 2 := by decide
theorem test_decode_andImm : decode 0b0101_000_111_1_10000#16 = .andImm 0 7 0b10000#5 := by decide
theorem test_decode_ldr : decode 0b0110_010_001_111111#16 = .ldr 2 1 0b111111#6 := by decide
theorem test_decode_str : decode 0b0111_010_001_000001#16 = .str 2 1 1#6 := by decide
theorem test_decode_rti : decode 0b1000_000000000000#16 = .rti := by decide
theorem test_decode_not : decode 0b1001_001_000_111111#16 = .not 1 0 := by decide
theorem test_decode_ldi : decode 0b1010_000_000000100#16 = .ldi 0 4#9 := by decide
theorem test_decode_sti : decode 0b1011_001_000000011#16 = .sti 1 3#9 := by decide
theorem test_decode_jmp : decode 0b1100_000_010_000000#16 = .jmp 2 := by decide
theorem test_decode_res : decode 0b1101_111010101101#16 = .res := by decide
theorem test_decode_lea : decode 0b1110_000_000001010#16 = .lea 0 10#9 := by decide
theorem test_decode_trap : decode 0b1111_0000_00100110#16 = .trap 0x26#8 := by decide
theorem test_decode_getc : decode 0b1111_0000_00100000#16 = .getc := by decide
theorem test_decode_out : decode 0b1111_0000_00100001#16 = .out := by decide
theorem test_decode_puts : decode 0b1111_0000_00100010#16 = .puts := by decide
theorem test_decode_in : decode 0b1111_0000_00100011#16 = .in_ := by decide
theorem test_decode_putsp : decode 0b1111_0000_00100100#16 = .putsp := by decide
theorem test_decode_halt : decode 0b1111_1111_00100101#16 = .halt := by decide

/-- Words of the worked examples, from the encoder (95_test_vectors.md). -/
theorem test_encode : encode (.addReg 1 1 1) = 0x1241#16 ∧ encode (.andImm 0 0 0b10000#5) = 0x5030#16 ∧
    encode (.ldr 1 1 0#6) = 0x6240#16 ∧ encode (.jsr 0x3FF#11) = 0x4BFF#16 ∧ encode (.jmp 7) = 0xC1C0#16 ∧
    encode (.not 1 0) = 0x923F#16 ∧ encode .halt = 0xF025#16 := by decide

theorem test_decodeTableWord : decodeTableWord 16 0xF025 = some .halt ∧ decodeTableWord 8 0x25 = some (.br 0#3 0x25#9) ∧
    decodeTableWord 17 0x1F025 = none := by decide

/-! ### One step on a small block -/

/-- The reset block with `v` as its one VM. -/
def block (v : Vm) : State := { State.reset with vms := [{ vm := v, counted := false, joined := true }] }

/-- A VM in the state after reset with some words of memory. -/
def withWords (v : Vm) : List (Word × Word) → Vm
  | [] => v
  | (a, w) :: rest => withWords (v.memWrite a w) rest

/-- The VM of the block after the step that fetches `w` at `pc`. -/
def after (v : Vm) (pc w : Word) : Option Vm :=
  match step (block { v.memWrite pc w with pc := pc }) with
  | .next t => t.vm?
  | .fault _ => none
  | .refused _ => none

/-- Registers R0, R1, R2 and R7 at these values. -/
def regs (r0 r1 r2 r7 : Word) : Vm := (((State.resetVm.setReg 0 r0).setReg 1 r1).setReg 2 r2).setReg 7 r7

/-- A register, the flags and pc, for the tests below. -/
def seen (r : RegIdx) (v : Vm) : Word × CondBits × Word := (v.reg r, v.flags, v.pc)

/-- V-OP-2. -/
theorem test_add_ignored_bits : (after (regs 3 4 0 0) 0x3000#16 0x1419#16).map (seen 2) = some (7#16, flagP, 0x3001#16) := by decide
/-- V-OP-4. -/
theorem test_add_wraps : (after (regs 0x8000 0x8000 9 0) 0x3000#16 0x1401#16).map (seen 2) = some (0#16, flagZ, 0x3001#16) := by decide
/-- V-OP-5. -/
theorem test_addImm_sign_change : (after (regs 0 0x7FFF 0 0) 0x3000#16 0x1461#16).map (seen 2) = some (0x8000#16, flagN, 0x3001#16) := by decide
/-- V-OP-7. -/
theorem test_addImm_negative : (after (regs 0x10 0 0 0) 0x3000#16 0x1030#16).map (seen 0) = some (0#16, flagZ, 0x3001#16) := by decide
/-- V-OP-10. -/
theorem test_andReg : (after (regs 0 0xFF 0xF0F 0) 0x3000#16 0x5642#16).map (seen 3) = some (0xF#16, flagP, 0x3001#16) := by decide
/-- V-OP-14. -/
theorem test_andImm_sign_extends : (after (regs 0x8001 0 0 0) 0x3000#16 0x5030#16).map (seen 0) = some (0x8000#16, flagN, 0x3001#16) := by decide
/-- V-OP-18. -/
theorem test_not : (after (regs 0x7FFF 0 0 0) 0x3000#16 0x9200#16).map (seen 1) = some (0x8000#16, flagN, 0x3001#16) := by decide
/-- V-DM-2: the address wraps. -/
theorem test_ld_wraps : (after (withWords State.resetVm [(0xFFFF#16, 0x8000#16)]) 0#16 0x21FE#16).map (seen 0) = some (0x8000#16, flagN, 1#16) := by decide
/-- V-DM-5: the latch overwrites a stored word. -/
theorem test_ld_latches :
    (after (withWords (State.resetVm.setKey 0x41#16) [(0xFE00#16, 0x1234#16)]) 0xFDFF#16 0x2000#16).map
      (fun v => (v.reg 0, v.mem.read 0xFE00#16, v.mem.read 0xFE02#16, v.pending)) = some (0x8000#16, 0x8000#16, 0x41#16, none) := by decide
/-- V-DM-3. -/
theorem test_ldi_latches :
    (after (withWords (State.resetVm.setKey 0x41#16) [(0x3005#16, 0xFE00#16)]) 0x3000#16 0xA004#16).map
      (fun v => (v.reg 0, v.flags, v.mem.read 0xFE02#16, v.pending)) = some (0x8000#16, flagN, 0x41#16, none) := by decide
/-- V-DM-4. -/
theorem test_ldi_no_key :
    (after (withWords State.resetVm [(0x3005#16, 0xFE00#16)]) 0x3000#16 0xA004#16).map (seen 0) = some (0#16, flagZ, 0x3001#16) := by decide
/-- V-DM-7: DR is BaseR. -/
theorem test_ldr_own_base : (after (withWords (regs 0 0x4000 0 0) [(0x4000#16, 0x7#16)]) 0x3000#16 0x6240#16).map (seen 1) = some (7#16, flagP, 0x3001#16) := by decide
/-- V-DM-8. -/
theorem test_ldr_wraps : (after (withWords State.resetVm [(0xFFFF#16, 1#16)]) 0x3000#16 0x647F#16).map (seen 2) = some (1#16, flagP, 0x3001#16) := by decide
/-- V-DM-11. -/
theorem test_lea_flags : (after State.resetVm 0x8000#16 0xE000#16).map (seen 0) = some (0x8001#16, flagN, 0x8001#16) := by decide
/-- V-DM-12: no access, so no latch. -/
theorem test_lea_no_access : (after (State.resetVm.setKey 0x41#16) 0xFDFF#16 0xE000#16).map (fun v => (v.reg 0, v.pending)) = some (0xFE00#16, some 0x41#16) := by decide
/-- V-DM-13. -/
theorem test_st : (after ((regs 0xF 0 0 0).setcc 1#16) 0x3005#16 0x3002#16).map (fun v => (v.mem.read 0x3008#16, v.flags)) = some (0xF#16, flagP) := by decide
/-- V-DM-14: a store at the status address is plain. -/
theorem test_st_status_plain : (after (regs 0x1234 0 0 0) 0xFDFF#16 0x3000#16).map (fun v => (v.rawRead 0xFE00#16, v.memRead 0xFE00#16)) = some (0x1234#16, 0#16) := by decide
/-- V-DM-16. -/
theorem test_sti : (after (withWords ((regs 0 0x41 0 0).setKey 0x99#16) [(0x3007#16, 0xFE00#16)]) 0x3003#16 0xB203#16).map
    (fun v => (v.mem.read 0xFE00#16, v.mem.read 0xFE02#16, v.pending)) = some (0x41#16, 0#16, some 0x99#16) := by decide
/-- V-DM-18: SR is BaseR, and the address wraps. -/
theorem test_str_wraps : (after (regs 0 0xFFFF 0 0) 0x3000#16 0x7241#16).map (fun v => v.mem.read 0#16) = some 0xFFFF#16 := by decide
/-- V-CT-3: no flag is set just after reset. -/
theorem test_br_not_taken : (after State.resetVm 0x3000#16 0x0FFF#16).map Vm.pc = some 0x3001#16 := by decide
/-- V-CT-5: condition 000 always branches. -/
theorem test_br_always : (after State.resetVm 0x3000#16 0x01FF#16).map Vm.pc = some 0x3000#16 := by decide
/-- V-CT-10. -/
theorem test_jmp : (after (regs 0 0 0x1234 0) 0x3000#16 0xC080#16).map (seen 2) = some (0x1234#16, 0b000#3, 0x1234#16) := by decide
/-- V-CT-13. -/
theorem test_jsr_backward : (after State.resetVm 0x3000#16 0x4C00#16).map (seen 7) = some (0x3001#16, 0b000#3, 0x2C01#16) := by decide
/-- V-CT-14. -/
theorem test_jsr_wraps : (after State.resetVm 0xFC00#16 0x4BFF#16).map (seen 7) = some (0xFC01#16, 0b000#3, 0#16) := by decide
/-- V-CT-15. -/
theorem test_jsrr : (after (State.resetVm.setReg 3 0x4000) 0x3010#16 0x40C0#16).map (seen 7) = some (0x3011#16, 0b000#3, 0x4000#16) := by decide
/-- V-CT-16: R7 is written before it is read. -/
theorem test_jsrr_r7 : (after (regs 0 0 0 0x5000) 0x3010#16 0x41C0#16).map (seen 7) = some (0x3011#16, 0b000#3, 0x3011#16) := by decide
/-- V-TR-3. -/
theorem test_trap : (after State.resetVm 0x3000#16 0xF000#16).map (fun v => (v.run, v.pc)) = some (.trapped 0#8, 0x3001#16) := by decide
/-- V-TR-2, V-TR-1: bits [11:8] are ignored, R7 stays. -/
theorem test_halt_enters_trapped : (after (regs 0 0 0 0x1111) 0x3000#16 0xFF25#16).map (fun v => (v.run, v.reg 7)) = some (.trapped 0x25#8, 0x1111#16) := by decide
/-- R140, R150: the other five service words. -/
theorem test_service_words_enter_trapped : [0xF020#16, 0xF021#16, 0xF022#16, 0xF023#16, 0xF024#16].map
    (fun w => (after State.resetVm 0x3000#16 w).map Vm.run)
    = [0x20#8, 0x21#8, 0x22#8, 0x23#8, 0x24#8].map fun n => some (.trapped n) := by decide
/-- V-TR-5. -/
theorem test_rti : (after (regs 1 2 3 4) 0x3000#16 0x8000#16).map (fun v => (v.run, v.pc, v.reg 7)) = some (.stopped, 0x3001#16, 4#16) := by decide
/-- V-TR-6. -/
theorem test_res : (after State.resetVm 0x3000#16 0xDEAD#16).map (fun v => (v.run, v.pc)) = some (.stopped, 0x3001#16) := by decide
/-- V-KB-8: the fetch latches the key and runs the status word. -/
theorem test_fetch_latches : (after (State.resetVm.setKey 0x41#16) 0xFE00#16 0xF025#16).map
    (fun v => (v.run, v.mem.read 0xFE02#16, v.pending)) = some (.stopped, 0x41#16, none) := by decide
/-- V-KB-7: pc wraps. -/
theorem test_pc_wraps : (after State.resetVm 0xFFFF#16 0xF025#16).map (fun v => (v.run, v.pc)) = some (.trapped 0x25#8, 0#16) := by decide

/-! ### The services -/

/-- What `Trap(n)` on VM 0 leaves of it and of the output, with the OPEN texts at ⟨0x50⟩ and ⟨0x51⟩. -/
def served (v : Vm) (n : Word) : Option (Vm × List OutEvent) :=
  match hostTrap 0 n { block v with cfg := { Config.default with inPrompt := [0x50#8], haltNotice := [0x51#8] } } with
  | .next t => t.vm?.map fun v' => (v', t.output)
  | .fault _ => none
  | .refused _ => none

/-- A VM trapped on `n`. -/
def trappedOn (n : Byte) (v : Vm) : Vm := { v with run := .trapped n }

/-- V-TS-1. -/
theorem test_getc : (served (trappedOn 0x20#8 (State.resetVm.setKey 0x141#16)) 0x20#16).map
    (fun r => (r.1.reg 0, r.1.pending, r.1.run, r.2)) = some (0x41#16, none, .running, []) := by decide
/-- V-TS-4. -/
theorem test_out : (served (trappedOn 0x21#8 (regs 0x1241 0 0 0)) 0x21#16).map (fun r => (r.1.run, r.2)) = some (.running, [.byte 0x41#8, .flush]) := by decide
/-- V-TS-7: the walk wraps. -/
theorem test_puts_wraps : (served (trappedOn 0x22#8 (withWords (regs 0xFFFF 0 0 0) [(0xFFFF#16, 0x41#16)])) 0x22#16).map
    (fun r => (r.1.run, r.2)) = some (.running, [.byte 0x41#8, .flush]) := by decide
/-- V-TS-9: no latch. -/
theorem test_puts_raw : (served (trappedOn 0x22#8 (withWords ((regs 0xFE00 0 0 0).setKey 0x42#16) [(0xFE00#16, 0x41#16)])) 0x22#16).map
    (fun r => (r.1.pending, r.2)) = some (some 0x42#16, [.byte 0x41#8, .flush]) := by decide
/-- V-TS-10. -/
theorem test_in : (served (trappedOn 0x23#8 (State.resetVm.setKey 0x42#16)) 0x23#16).map
    (fun r => (r.1.reg 0, r.1.pending, r.2)) = some (0x42#16, none, [.byte 0x50#8, .byte 0x42#8, .flush]) := by decide
/-- V-TS-11. -/
theorem test_putsp : (served (trappedOn 0x24#8 (withWords (regs 0x4000 0 0 0) [(0x4000#16, 0x6948#16), (0x4001#16, 0x21#16)])) 0x24#16).map
    (fun r => r.2) = some [.byte 0x48#8, .byte 0x69#8, .byte 0x21#8, .flush] := by decide
/-- V-TS-12: the low byte always, zero included. -/
theorem test_putsp_low_zero : (served (trappedOn 0x24#8 (withWords (regs 0x4000 0 0 0) [(0x4000#16, 0x4100#16)])) 0x24#16).map
    (fun r => r.2) = some [.byte 0#8, .byte 0x41#8, .flush] := by decide
/-- V-TS-17: only the low byte of the number is used. -/
theorem test_halt_service : (served (trappedOn 0x25#8 State.resetVm) 0x125#16).map (fun r => (r.1.run, r.2)) = some (.stopped, [.byte 0x51#8, .flush]) := by decide
/-- V-TS-15. -/
theorem test_trap_on_stopped : (served ((regs 0x41 0 0 0).stop) 0x21#16).map (fun r => (r.1.run, r.2)) = some (.stopped, []) := by decide
/-- V-TS-16. -/
theorem test_unknown_trap : (served (trappedOn 0x26#8 State.resetVm) 0x26#16).map (fun r => (r.1.run, r.2)) = some (.running, []) := by decide

/-! ### Tick, rounds, reset -/

/-- What one step with this operation in progress leaves. -/
def stepped (s : State) : Option State :=
  match step s with
  | .next t => some t
  | .fault _ => none
  | .refused _ => none

/-- A Tick by the host that has come this far. -/
def inTick (phase : TickPhase) (v : Vm) : State := { block v with activity := .tick phase .host }

/-- V-TK-2: the blocked bit of the new trap's class. -/
theorem test_tick_blocks : (stepped (inTick (.run 999) (trappedOn 0x20#8 State.resetVm))).map
    (fun t => (t.vm?.map fun v => (v.blockedInput, v.blockedOutput), t.replies)) = some (some (true, false), [.stillRunning true]) := by decide
/-- V-TK-3. -/
theorem test_tick_blocked_waits : (stepped (inTick .service { trappedOn 0x20#8 State.resetVm with blockedInput := true })).map
    (fun t => (t.vm?.map Vm.run, t.replies)) = some (some (.trapped 0x20#8), [.stillRunning true]) := by decide
/-- V-TK-1. -/
theorem test_tick_stopped : (stepped (inTick .service State.resetVm.stop)).map (fun t => (t.activity, t.replies)) = some (.idle, [.stillRunning false]) := by decide
/-- V-TK-7: HALT has no class. -/
theorem test_tick_unclassed : (stepped (inTick (.run 1) (trappedOn 0x25#8 State.resetVm))).map
    (fun t => t.vm?.map fun v => (v.blockedInput, v.blockedOutput)) = some (some (false, false)) := by decide
/-- The budget of a Tick is TICK_QUOTA (R177). -/
theorem test_tick_quota : (stepped (inTick .service State.resetVm)).map State.activity = some (.tick (.run 1000) .host) := by decide

/-- A block of two VMs whose scheduler is about to start a round. -/
def two (v0 v1 : Vm) (owner : Nat) (keys : List (Option Word)) : State :=
  { State.reset with
    vms := [{ vm := v0, counted := false, joined := true }, { vm := v1, counted := false, joined := true }]
    owner := some owner, running := 2, started := true, activity := .schedule, keys := keys }

/-- A VM blocked on OUT. -/
def blockedOut : Vm := { trappedOn 0x21#8 State.resetVm with blockedOutput := true }

/-- A VM blocked on GETC. -/
def blockedIn : Vm := { trappedOn 0x20#8 State.resetVm with blockedInput := true }

/-- V-SC-2, V-SC-4. -/
theorem test_escape_cycles : (stepped (two blockedOut blockedOut 1 [some 0x1B#16])).map
    (fun t => (t.owner, (t.vmAt 0).map Vm.blockedOutput, (t.vmAt 1).map Vm.blockedOutput)) = some (some 0, some false, some true) := by decide
/-- E9: the key goes to the owner, whose input bit clears, and to no other VM. -/
theorem test_key_to_owner : (stepped (two blockedIn blockedIn 0 [some 0x41#16])).map
    (fun t => ((t.vmAt 0).map fun v => (v.pending, v.blockedInput), (t.vmAt 1).map fun v => (v.pending, v.blockedInput)))
    = some (some (some 0x41#16, false), some (none, true)) := by decide
/-- V-SC-5: a VM is counted once. -/
theorem test_counted_once :
    let s := { two State.resetVm.stop State.resetVm 0 [] with activity := .tick .service (.round true) }
    (stepped s).map State.running = some 1 ∧
      (stepped { s with vms := s.vms.map fun slot => { slot with counted := true } }).map State.running = some 2 := by decide
/-- V-SC-1: nothing runs. -/
theorem test_scheduler_ends : (stepped { State.reset with vms := [], owner := none, running := 0, activity := .schedule }).map
    State.activity = some .idle := by decide
/-- V-RS-2. -/
theorem test_reset : ((stepped { block ((regs 1 2 3 4).setKey 0x41#16).stop with activity := .idle, script := [.reset 0] }).bind State.vm?).map
    (fun v => (v.reg 7, v.pc, v.run, v.pending)) = some (0#16, 0x3000#16, .running, some 0x41#16) := by decide
/-- V-RS-5, V-RS-1. -/
theorem test_load_past_the_end : hostCall (.load 0 ⟨0xFFFF#16, [1#16, 2#16]⟩) State.reset = .refused .loadOutOfRange := by rfl
theorem test_new_vm_stopped : (hostCall .construct { State.reset with vms := [], owner := none, running := 0 } =
    .next { State.reset with vms := [⟨Vm.construct Config.default 1, false, false⟩], owner := none, running := 0, draws := 2 }) := by rfl

/-- `State.reset`'s VM is a constructed VM after Reset (R210, R211; log 7). -/
theorem test_reset_vm : State.resetVm = (Vm.construct Config.default 0).reset := by rfl

/-- `withFetchWord` makes the next step run that instruction, from reset and from a block with no VM. -/
theorem test_withFetchWord : (stepped (State.reset.withFetchWord 16 0xE00A)).bind (fun t => t.vm?.map (seen 0)) = some (0x300B#16, flagP, 0x3001#16) ∧
    (stepped (State.withFetchWord { State.reset with vms := [], activity := .idle } 16 0xF025)).bind (fun t => t.vm?.map Vm.run)
      = some (.trapped 0x25#8) := by decide

/-! ### Witnesses: a state and operands that meet the hypotheses of each statement

`witness_vm` is the one of the statements AddRegisterForm to StoreBaseOffset, ConditionalBranch to
JumpSubroutineRegister, RtiAndReservedStopTheVm, ResetSetsAndKeeps and InspectionAnswers; the words that a statement's
first clause is about are those of the decode tests above. -/

theorem witness_vm : State.reset.vm? = some State.resetVm ∧ State.reset.vmAt 0 = some State.resetVm := by decide

/-- LoadIndirect and StoreIndirect, with the pointer in memory and with the pointer read at the keyboard status. -/
theorem witness_indirect : (block { State.resetVm with pc := 0xFDFF#16 }).vm? = some { State.resetVm with pc := 0xFDFF#16 } ∧
    State.reset.vm? = some State.resetVm ∧ 0xFE00#16 = ({ State.resetVm with pc := 0xFDFF#16 } : Vm).pc + sext 1#9 ∧ 0x3004#16 = State.resetVm.pc + sext 4#9 ∧
    0x3004#16 ≠ kbsr := by decide

/-- TrapEntersTrapped, for the plain row and for each service row. -/
theorem witness_trap_rows (n : BitVec 8) :
    let P := fun (i : Instr) (n : BitVec 8) => i = .trap n ∨ i = .getc ∧ n = 0x20#8 ∨ i = .out ∧ n = 0x21#8 ∨
      i = .puts ∧ n = 0x22#8 ∨ i = .in_ ∧ n = 0x23#8 ∨ i = .putsp ∧ n = 0x24#8 ∨ i = .halt ∧ n = 0x25#8
    P (.trap n) n ∧ P .getc 0x20#8 ∧ P .out 0x21#8 ∧ P .puts 0x22#8 ∧ P .in_ 0x23#8 ∧ P .putsp 0x24#8 ∧ P .halt 0x25#8 := by
  simp

/-- The service statements: a VM that is not Stopped, with a key pending and with none. -/
theorem witness_service : (block (trappedOn 0x20#8 (State.resetVm.setKey 0x141#16))).vmAt 0 = some (trappedOn 0x20#8 (State.resetVm.setKey 0x141#16)) ∧
    (trappedOn 0x20#8 (State.resetVm.setKey 0x141#16)).run ≠ .stopped ∧
    (trappedOn 0x20#8 (State.resetVm.setKey 0x141#16)).pending = some 0x141#16 ∧ State.resetVm.run ≠ .stopped := by decide

/-- UnknownTrapResumes, on both sides of the services. -/
theorem witness_unknown_trap : (0x1F#8).toNat < 0x20 ∧ 0x25 < (0x26#8).toNat := by decide

/-- A VM with the string "Hi" at R0 (E6). -/
def hi : Vm := withWords (regs 0x4000 0 0 0) [(0x4000#16, 0x48#16), (0x4001#16, 0x69#16)]

/-- PutsWritesTheString and PutspWritesPackedBytes, first clause: "Hi", and the empty string. -/
theorem witness_string : StringAt hi (hi.reg 0) [0x48#16, 0x69#16] ∧ StringAt State.resetVm (State.resetVm.reg 0) [] := by
  refine ⟨⟨fun k h => ?_, by decide⟩, fun k h => absurd h (by simp), by decide⟩
  have hk : k = 0 ∨ k = 1 := by simp at h; omega
  rcases hk with rfl | rfl
  · show hi.mem.read 0x4000#16 = 0x48#16 ∧ 0x48#16 ≠ 0#16; decide
  · show hi.mem.read 0x4001#16 = 0x69#16 ∧ 0x69#16 ≠ 0#16; decide

/-- A memory that lists 1 at these addresses. -/
def onesAt (l : List Nat) : Memory := ⟨l.map fun k => (k, 1#16)⟩

theorem read_onesAt (l : List Nat) (a : Word) (h : a.toNat ∈ l) : (onesAt l).read a = 1#16 := by
  show cellsRead (l.map fun k => (k, 1#16)) a.toNat = 1#16
  induction l with
  | nil => cases h
  | cons k rest ih =>
    by_cases hk : k = a.toNat
    · simp [cellsRead, hk]
    · simp only [List.map_cons, cellsRead, if_neg hk]
      exact ih ((List.mem_cons.mp h).resolve_left (Ne.symm hk))

/-- PutsWritesTheString and PutspWritesPackedBytes, second clause: a memory with no zero word. -/
theorem witness_no_zero_word : ∃ v : Vm, (block v).vmAt 0 = some v ∧ v.run ≠ .stopped ∧ ∀ a : Word, v.mem.read a ≠ 0#16 := by
  refine ⟨{ State.resetVm with mem := onesAt (List.range 65536) }, rfl, by simp [State.resetVm], fun a => ?_⟩
  show (onesAt (List.range 65536)).read a ≠ 0#16
  rw [read_onesAt _ a (List.mem_range.mpr a.isLt)]
  decide

/-- TrapOnStoppedIsNoOperation, the two clauses about a Stopped VM and about the low byte. -/
theorem witness_trap_on_stopped : (block State.resetVm.stop).vmAt 0 = some State.resetVm.stop ∧
    State.resetVm.stop.run = .stopped ∧ bitsAt 0x125#16 7 0 = bitsAt 0x25#16 7 0 := by decide

/-- TrapOnStoppedIsNoOperation, the clauses about a service: a Trapped and a Running VM, a service that answers, one that
never completes, and the boot loop. -/
theorem witness_trap_serves :
    (trapAt 0 (BitVec.ofNat 8 (bitsAt 0x121#16 7 0)) (block (trappedOn 0x21#8 hi)) =
        .next { block { hi with run := .running } with output := [.byte 0#8, .flush] } ∧
      State.vmAt { block { hi with run := .running } with output := [.byte 0#8, .flush] } 0 = some { hi with run := .running }) ∧
    hi.run ≠ .stopped ∧ (block (trappedOn 0x21#8 hi)).activity = .drive := by
  refine ⟨⟨rfl, rfl⟩, by decide, rfl⟩

theorem witness_trap_hangs : ∃ v : Vm, v.run ≠ .stopped ∧ (block v).vmAt 0 = some v ∧
    trapAt 0 (BitVec.ofNat 8 (bitsAt 0x22#16 7 0)) (block v) = .fault .serviceNeverCompletes := by
  obtain ⟨v, hv, hr, hz⟩ := witness_no_zero_word
  have walk : ∀ (fuel : Nat) (a : Word), stringWords { v with run := .running } fuel a = none := by
    intro fuel
    induction fuel with
    | zero => exact fun _ => rfl
    | succ k ih =>
      intro a
      have h : ({ v with run := .running } : Vm).rawRead a ≠ 0x0000#16 := hz a
      rw [stringWords, if_neg h, ih]
  refine ⟨v, hr, hv, ?_⟩
  have hs : v.resume.stringAtR0 = none := walk 65536 _
  have hn : (BitVec.ofNat 8 (bitsAt 0x22#16 7 0)).toNat = 0x22 := by decide
  cases hc : v.run with
  | stopped => exact absurd hc hr
  | running => simp only [trapAt, hv, Vm.trapService, hc, serviceFor, hn, servicePuts, hs]
  | trapped n => simp only [trapAt, hv, Vm.trapService, hc, serviceFor, hn, servicePuts, hs]

/-- KeyboardStatusRead and StoreThenReadAndFetch: a canonical memory that lists something, a key pending and none, and
an address beside the keyboard status. -/
theorem witness_keyboard : (hi.setKey 0x41#16).mem.wf = true ∧ (hi.setKey 0x41#16).pending = some 0x41#16 ∧ hi.pending = none ∧
    0xFDFF#16 ≠ kbsr ∧ 0xFE01#16 ≠ kbsr ∧ 0xFE01#16 ≠ kbdr := by decide

/-- CanonicalMemoryIsUnique: one memory reached by two ways. -/
theorem witness_canonical : ((hi.mem.write 3#16 1#16).write 4#16 2#16).wf = true ∧ ((hi.mem.write 4#16 2#16).write 3#16 1#16).wf = true ∧
    ∀ a : Word, ((hi.mem.write 3#16 1#16).write 4#16 2#16).read a = ((hi.mem.write 4#16 2#16).write 3#16 1#16).read a :=
  ⟨by decide, by decide, fun a => congrArg (fun m => Memory.read m a)
    (show (hi.mem.write 3#16 1#16).write 4#16 2#16 = (hi.mem.write 4#16 2#16).write 3#16 1#16 by decide)⟩

/-- AddVmConstructsLoadsAndResets: two images that fit, the second over the first and up to the last address, and a
list with one that does not. -/
theorem witness_loader :
    (∀ img ∈ [Image.mk 0xFFFE#16 [1#16, 2#16], ⟨0xFFFF#16, [3#16]⟩], img.origin.toNat + img.words.length ≤ 65536) ∧
    (∃ img ∈ [Image.mk 0x3000#16 [1#16], ⟨0xFFFF#16, [1#16, 2#16]⟩], 65536 < img.origin.toNat + img.words.length) ∧
    wordAfterLoads [⟨0xFFFE#16, [1#16, 2#16]⟩, ⟨0xFFFF#16, [3#16]⟩] 0xFFFF#16 0#16 = 3#16 ∧
    wordAfterLoads [⟨0xFFFE#16, [1#16, 2#16]⟩, ⟨0xFFFF#16, [3#16]⟩] 0xFFFD#16 9#16 = 9#16 := by decide

/-- LoadWritesTheImage and AddVmConstructsLoadsAndResets: an image that just fits, and one that does not; before the
first round and after it. -/
theorem witness_load : State.resetVm.mem.wf = true ∧ Config.default.initMem.wf = true ∧
    (0xFFFE#16).toNat + [1#16, 2#16].length ≤ 65536 ∧ 65536 < (0xFFFF#16).toNat + [1#16, 2#16].length ∧
    State.reset.started = false ∧ State.started { State.reset with started := true } = true := by decide

/-- DecodeOfEncode, and IgnoredBitsDoNotMatter (V-OP-1, V-OP-2; V-TR-2). -/
theorem witness_encoding : Instr.wellFormed (.addReg 7 0 7) = true ∧
    0x1401#16 &&& ~~~ ignoredBits (decode 0x1401#16) = 0x1419#16 &&& ~~~ ignoredBits (decode 0x1401#16) ∧
    0xF025#16 &&& ~~~ ignoredBits (decode 0xF025#16) = 0xFF25#16 &&& ~~~ ignoredBits (decode 0xF025#16) := by decide

/-- FlagUpdateAndSignExtension: the field widths, each with its top bit set (E2). -/
theorem witness_sext : sext 0x10#5 = 0xFFF0#16 ∧ sext 0x20#6 = 0xFFE0#16 ∧ sext 0x100#9 = 0xFF00#16 ∧ sext 0x400#11 = 0xFC00#16 := by decide

/-- StepRunsDecodedInstruction, the host's clauses: a call to come, and none. -/
theorem witness_host_moves :
    State.script { block State.resetVm with activity := .idle, script := [.cycleOwner] } = .cycleOwner :: [] ∧
    State.activity { block State.resetVm with activity := .idle } = .idle ∧ (block State.resetVm).script = [] := by decide

/-- StepRunsDecodedInstruction: a Running VM under each of the four operations. -/
theorem witness_engine : State.resetVm.run = .running ∧ State.reset.activity = .drive ∧
    State.engineTurn { State.reset with activity := .runFor none } = true ∧
    State.engineTurn { State.reset with activity := .runFor (some 1) } = true ∧
    State.engineTurn { State.reset with activity := .tick (.run 1) .host } = true := by decide

/-- V-TR-12, V-TR-7: the budget a RunFor starts with. -/
theorem test_runFor_budget : budgetOf none = none ∧ budgetOf (some (-1)) = none ∧ budgetOf (some 0) = some 0 ∧
    budgetOf (some 5) = some 5 := by decide

/-- RunForReturnsTheState and RunForReturnsWithinBudget: a Trapped VM, and a budget of zero. -/
theorem witness_runFor_ends : (block (trappedOn 0x25#8 State.resetVm)).vm? = some (trappedOn 0x25#8 State.resetVm) ∧
    (trappedOn 0x25#8 State.resetVm).run ≠ .running ∧ State.reset.vm?.isSome = true := by decide

/-- ParametersFixedAndOutputAppended: a step from reset answers a next state. -/
theorem witness_step : ∃ t, step State.reset = .next t := ⟨_, rfl⟩

/-- OtherVmsAreUntouched and InstructionsSeeTheirVmOnly: two blocks with the same VM at `cur` and different neighbours. -/
theorem witness_two_vms :
    let s1 := { two hi blockedIn 0 [] with activity := .tick (.run 5) .host }
    let s2 := { two hi blockedOut 1 [] with activity := .drive }
    s1.activity.onCur = true ∧ 1 ≠ s1.cur ∧ s1.engineTurn = true ∧ s2.engineTurn = true ∧ s1.cfg = s2.cfg ∧ s1.vm? = s2.vm? ∧
      (stepped s1).isSome = true ∧ (stepped s2).isSome = true :=
  ⟨by decide, by decide, by decide, by decide, rfl, by decide, by decide, by decide⟩

/-- OnlyFlagUpdatersWriteFlags: the flags change, by an instruction and by Reset. -/
theorem witness_flag_writers :
    ((stepped (block (withWords State.resetVm [(0x3000#16, 0x5020#16)]))).bind State.vm?).map Vm.flags = some flagZ ∧
    ((stepped { block (State.resetVm.setcc 1#16) with activity := .idle, script := [.reset 0] }).bind State.vm?).map Vm.flags = some 0#3 ∧
    State.reset.cfg.jsrSetsFlags = false ∧ State.reset.cfg.trapSetsFlags = false := by decide

/-- OnlyListedWritersWriteRegisters: a register changes by an instruction, by GETC, by IN and by Reset. -/
theorem witness_register_writers :
    ((stepped (block (withWords State.resetVm [(0x3000#16, 0x1025#16)]))).bind State.vm?).map (fun v => v.reg 0) = some 5#16 ∧
    ((stepped (block (trappedOn 0x20#8 (State.resetVm.setKey 7#16)))).bind State.vm?).map (fun v => v.reg 0) = some 7#16 ∧
    ((stepped (block (trappedOn 0x23#8 (State.resetVm.setKey 7#16)))).bind State.vm?).map (fun v => v.reg 0) = some 7#16 ∧
    ((stepped { block (regs 9 0 0 0) with activity := .idle, script := [.reset 0] }).bind State.vm?).map (fun v => v.reg 0) = some 0#16 ∧
    State.reset.cfg.trapWritesR7 = false := by decide

/-- OnlyStoresAndLoadWriteMemory: a word changes by a store and by Load, at addresses beside the keyboard registers. -/
theorem witness_memory_writers :
    ((stepped (block (withWords { regs 9 0xFE01 0 0 with pc := 0x3000#16 } [(0x3000#16, 0x7040#16)]))).bind State.vm?).map
      (fun v => v.mem.read 0xFE01#16) = some 9#16 ∧
    ((stepped { block State.resetVm with activity := .idle, script := [.load 0 ⟨0xFFFF#16, [9#16]⟩] }).bind State.vm?).map
      (fun v => v.mem.read 0xFFFF#16) = some 9#16 := by decide

/-- OnlyListedEventsChangeRunState: an instruction, a service and Reset. -/
theorem witness_run_changes :
    ((stepped (block (withWords State.resetVm [(0x3000#16, 0xD000#16)]))).bind State.vm?).map Vm.run = some .stopped ∧
    ((stepped (block (trappedOn 0x26#8 State.resetVm))).bind State.vm?).map Vm.run = some .running ∧
    ((stepped { block State.resetVm.stop with activity := .idle, script := [.reset 0] }).bind State.vm?).map Vm.run = some .running := by decide

/-- KeysReachOnlyTheOwner: a key becomes pending by SetKey and by a round. -/
theorem witness_key_arrives :
    ((stepped { block State.resetVm with activity := .idle, script := [.setKey 0 5#16] }).bind State.vm?).map Vm.pending = some (some 5#16) ∧
    ((stepped (two hi hi 1 [some 5#16])).bind fun t => t.vmAt 1).map Vm.pending = some (some 5#16) := by decide

/-- V-KB-4: SetKey overwrites the key; on a Stopped VM. -/
theorem test_setKey_overwrites :
    ((stepped { block (State.resetVm.stop.setKey 0x41#16) with activity := .idle, script := [.setKey 0 0x42#16] }).bind State.vm?).map
      (fun v => (v.pending, v.run)) = some (some 0x42#16, .stopped) := by decide

/-- StoppedIsAbsorbing: a Stopped VM under a round, and a step that is no Reset of it. -/
theorem witness_stopped : (two State.resetVm.stop hi 0 []).vmAt 0 = some State.resetVm.stop ∧ State.resetVm.stop.run = .stopped ∧
    (two State.resetVm.stop hi 0 []).activity ≠ .idle ∧ (stepped (two State.resetVm.stop hi 0 [])).isSome = true := by decide

/-- InspectionAnswers: a Trapped VM and one that is not. -/
theorem witness_inspection : (trappedOn 0x25#8 State.resetVm).run = .trapped 0x25#8 ∧ ∀ n : BitVec 8, State.resetVm.run ≠ .trapped n :=
  ⟨rfl, fun _ => by simp [State.resetVm]⟩

/-- TickServicesOrWaits: the four clauses. -/
theorem witness_tick_service : (inTick .service State.resetVm).vm? = some State.resetVm ∧ State.resetVm.stop.run = .stopped ∧
    State.resetVm.run = .running ∧ blockedIn.run = .trapped 0x20#8 ∧ blockedIn.blockedInput = true ∧ blockedOut.blockedOutput = true ∧
    (trappedOn 0x21#8 State.resetVm).blockedInput = false ∧ (trappedOn 0x21#8 State.resetVm).blockedOutput = false := by decide

/-- TickBlocksAndReports: the same inside a round, with the output bit set and the round going on to VM 1 (P4, round 2). -/
theorem witness_tick_in_round :
    let s := { two (trappedOn 0x21#8 State.resetVm) blockedIn 0 [] with activity := .tick (.run 7) (.round true) }
    s.vm? = some (trappedOn 0x21#8 State.resetVm) ∧ (trappedOn 0x21#8 State.resetVm).run ≠ .running ∧
      (stepped s).map (fun t => ((t.vmAt 0).map Vm.blockedOutput, t.cur, t.running)) = some (some true, 1, 2) := by decide

/-- TickBlocksAndReports: the RunFor of a host's Tick returned on a Trapped VM, and with its budget used up. -/
theorem witness_tick_returns : (inTick (.run 7) (trappedOn 0x21#8 State.resetVm)).vm? = some (trappedOn 0x21#8 State.resetVm) ∧
    (trappedOn 0x21#8 State.resetVm).run ≠ .running ∧ (inTick (.run 0) State.resetVm).activity = .tick (.run 0) .host := by decide

/-- EscapeCyclesTheOwner, KeyIsDeliveredToTheOwner, RoundClearsOwnersOutputBit: two VMs, owner 1 the last, and a poll of the
Escape key, of another key, of no key and past the end; a block with no owner. -/
theorem witness_round : (two hi hi 1 []).owner = some 1 ∧ 1 < (two hi hi 1 []).vms.length ∧
    (two hi hi 1 [some 0x1B#16]).keys.head? = some (some (two hi hi 1 []).cfg.escapeKey) ∧
    (two hi hi 1 [some 0x41#16]).keys.head? = some (some 0x41#16) ∧ 0x41#16 ≠ (two hi hi 1 []).cfg.escapeKey ∧
    (two hi hi 1 [none]).keys.head? = some none ∧ (two hi hi 1 []).keys = [] ∧
    State.owner { State.reset with vms := [], owner := none } = none := by decide

/-- The same block between two host calls, the next of which is a Round. -/
def loneRound (v0 v1 : Vm) (owner : Nat) (keys : List (Option Word)) : State :=
  { two v0 v1 owner keys with activity := .idle, script := [.round, .round] }

/-- The premise `RoundRuns` of the same three: in the scheduler's loop, and called alone. -/
theorem witness_roundRuns (keys : List (Option Word)) :
    (two hi hi 1 keys).RoundRuns true ∧ (loneRound hi hi 1 keys).RoundRuns false :=
  ⟨.inl ⟨rfl, rfl, Nat.succ_ne_zero 1⟩, .inr ⟨rfl, ⟨rfl, rfl⟩, fun slot h => by
    simp [loneRound, two] at h; rw [h]⟩⟩

/-- R183, R190: each round polls once, so the second Round finds the second key; the count and the marks stay (R187). -/
theorem test_one_poll_a_round :
    let t := stepped (loneRound blockedIn hi 0 [none, some 0x41#16])
    t.map State.keys = some [some 0x41#16] ∧ t.map State.owner = some (some 0) ∧ t.map State.running = some 2 ∧
      t.map State.script = some [.round] ∧ t.map (fun u => u.vms.map Slot.counted) = some [false, false] ∧
      t.map (fun u => (u.vmAt 0).map Vm.pending) = some (some none) := by decide

/-- RunningCountAndTermination: a VM that is not the last, the last one, VMs that were all added, one that was not, and a
count of zero. -/
theorem witness_running_count : (∀ slot ∈ (two hi hi 0 []).vms, slot.joined = true) ∧
    (two hi hi 0 []).vms[(two hi hi 0 []).cur]? = some ⟨hi, false, true⟩ ∧
    (two hi hi 0 []).cur + 1 < (two hi hi 0 []).vms.length ∧
    State.vms { two hi hi 0 [] with cur := 1 } = (two hi hi 0 []).vms ∧ (two hi hi 0 []).vms.length ≤ 1 + 1 ∧
    (∃ slot ∈ [(⟨hi, false, true⟩ : Slot), ⟨hi, false, false⟩], slot.joined = false) ∧
    State.running { two hi hi 0 [] with running := 0 } = 0 := by decide

/-- NonOwnerStaysBlockedOnOutput, output: VM 1 blocked on OUT while VM 0 is the owner and a round begins. -/
theorem witness_blocked_output :
    let s := two hi blockedOut 0 []
    s.vmAt 1 = some blockedOut ∧ blockedOut.run = .trapped 0x21#8 ∧ blockedOut.blockedOutput = true ∧
      (stepped s).map State.owner = some (some 0) ∧ s.activity ≠ .drive ∧ s.activity ≠ .idle := by decide

/-- The same, input: the owner, VM 1, blocked on GETC through a round that polls no key, and a VM that is not the owner
through a round that delivers a key. -/
theorem witness_blocked_input :
    let s := two hi blockedIn 1 [none]
    let s' := two hi blockedIn 0 [some 0x41#16]
    s.vmAt 1 = some blockedIn ∧ blockedIn.run = .trapped 0x20#8 ∧ blockedIn.blockedInput = true ∧ (stepped s).isSome = true ∧
      s.keys.head? = some none ∧ s'.vmAt 1 = some blockedIn ∧ (stepped s').isSome = true ∧ s'.owner ≠ some 1 ∧
      s.activity = .schedule ∧ s'.activity = .schedule := by decide

/-- The same: the host may reset, trap or drive another VM meanwhile. -/
theorem witness_blocked_other :
    let s := { two hi blockedOut 0 [] with activity := .idle, script := [.reset 0] }
    s.vmAt 1 = some blockedOut ∧ (stepped s).isSome = true ∧ s.script.head? = some (.reset 0) ∧
      s.script.head? ≠ some (.reset 1) ∧ (stepped s).map State.owner = some (some 0) := by decide

/-- EveryStepKeepsTheInvariant: two VMs in a round. -/
theorem witness_inv : (two hi blockedOut 0 []).Inv := by
  refine ⟨rfl, fun slot h => ?_, by decide, ?_, ?_, ?_, by decide⟩
  · have : slot.vm = hi ∨ slot.vm = blockedOut := by simp [two] at h; rcases h with rfl | rfl <;> simp
    rcases this with e | e <;> rw [e]
    · exact ⟨by decide, fun _ => .inl rfl, fun h => by cases h⟩
    · exact ⟨by decide, fun _ => .inl rfl, fun h => by cases h⟩
  · intro h; cases h
  · intro o h; cases h; decide
  · intro h; cases h

/-- BlockedBitsExcludeEachOther: two blocked VMs and a host that only resumes the scheduler. -/
theorem witness_blockInv : (two blockedIn blockedOut 0 []).BlockInv := by
  refine ⟨fun c h => (by cases h), by decide, fun slot h => ?_⟩
  have : slot.vm = blockedIn ∨ slot.vm = blockedOut := by simp [two] at h; rcases h with rfl | rfl <;> simp
  rcases this with e | e <;> rw [e]
  · exact { input := fun _ => ⟨0x20#8, rfl, rfl⟩, output := fun h => by cases h }
  · exact { input := fun h => (by cases h), output := fun _ => ⟨0x21#8, rfl, rfl⟩ }

end Sys2Proof.Tests
end

/-! PROOFS. What a step does to the parameters and to the output stream (00_scope.md R9; 44_trap_services.md R159). -/

namespace Sys2Proof.Machine

/-- From `s` to `t` the parameters stay, and the output stream only grows at its end (R9, R159). -/
structure State.Extends (s t : State) : Prop where
  cfg : t.cfg = s.cfg
  output : s.output <+: t.output

/-- How every operation of the block but a trap service extends it: by no event. -/
theorem State.Extends.of_eq {s t : State} (hc : t.cfg = s.cfg) (ho : t.output = s.output) : s.Extends t :=
  ⟨hc, ho ▸ List.prefix_rfl⟩

/-- The events of a service go behind the old ones (R159). -/
theorem trapAt_extends {i : Nat} {n : Byte} {s t : State} (h : trapAt i n s = .next t) : s.Extends t := by
  obtain ⟨v, r, -, -, rfl⟩ := trapAt_eq_next h
  exact ⟨rfl, List.prefix_append s.output r.events⟩

/-- What goes on after a service without touching the parameters or the stream keeps what the service did. -/
theorem andThen_trapAt_extends {i : Nat} {n : Byte} {s t : State} {f : State → State}
    (hc : ∀ u, (f u).cfg = u.cfg) (ho : ∀ u, (f u).output = u.output)
    (h : andThen (trapAt i n s) f = .next t) : s.Extends t := by
  obtain ⟨u, hu, rfl⟩ := andThen_eq_next h
  obtain ⟨hcfg, hout⟩ := trapAt_extends hu
  exact ⟨(hc u).trans hcfg, ho u ▸ hout⟩

/-- An iteration of the engine's loop changes one VM and the budget (R73). -/
theorem runInstr_extends {v : Vm} {s t : State} (h : runInstr v s = .next t) : s.Extends t := by
  rw [runInstr_eq] at h
  cases h
  exact .of_eq rfl rfl

/-- The host's Trap call is a service with a reply; every other call leaves the parameters and the stream. -/
theorem hostCall_extends {c : HostCall} {s t : State} (h : hostCall c s = .next t) : s.Extends t := by
  cases c with
  | construct =>
    simp only [hostCall, hostConstruct] at h
    split at h <;> cases h
    exact .of_eq rfl rfl
  | addVm images =>
    simp only [hostCall, addVm] at h
    split at h
    · cases h
    · split at h <;> cases h
      exact .of_eq rfl rfl
  | reset i | setKey i k =>
    simp only [hostCall, onVmCall] at h
    split at h <;> cases h
    exact .of_eq rfl rfl
  | load i img =>
    simp only [hostCall, hostLoad] at h
    split at h
    · cases h
    · split at h <;> cases h
      exact .of_eq rfl rfl
  | trap i n =>
    refine andThen_trapAt_extends (fun u => ?_) (fun u => ?_) h
    · split <;> rfl
    · split <;> rfl
  | inspect i q =>
    simp only [hostCall, hostInspect] at h
    split at h
    · cases h
    · split at h <;> cases h
      exact .of_eq rfl rfl
  | cycleOwner =>
    cases h
    exact .of_eq rfl rfl
  | round =>
    simp only [hostCall, startRounds] at h
    split at h <;> cases h
    exact .of_eq (State.beginRound_cfg _ _) (State.beginRound_output _ _)
  | runScheduler =>
    simp only [hostCall, startRounds] at h
    split at h <;> cases h
    exact .of_eq rfl rfl
  | runFor i _ | tick i | drive i =>
    simp only [hostCall, beginOn] at h
    split at h <;> cases h
    exact .of_eq rfl rfl

theorem hostStep_extends {s t : State} (h : hostStep s = .next t) : s.Extends t := by
  unfold hostStep at h
  split at h
  · cases h
    exact .of_eq rfl rfl
  · obtain ⟨hcfg, hout⟩ := hostCall_extends h
    exact ⟨hcfg, hout⟩

/-- The boot loop: an instruction, a service, or its end (R214). -/
theorem driveStep_extends {s t : State} (h : driveStep s = .next t) : s.Extends t := by
  unfold driveStep at h
  split at h
  · cases h
  · split at h
    · exact runInstr_extends h
    · exact trapAt_extends h
    · cases h
      exact .of_eq rfl rfl

/-- A host's RunFor: an instruction, or its return (R73). -/
theorem runForStep_extends {s t : State} (h : runForStep s = .next t) : s.Extends t := by
  unfold runForStep at h
  split at h
  · cases h
  · split at h
    · exact runInstr_extends h
    · cases h
      exact .of_eq rfl rfl

/-- Tick, steps 1 and 2: the return, the entry of step 3, or a service before it (R177). -/
theorem tickService_extends {caller : Caller} {s t : State} (h : tickService caller s = .next t) : s.Extends t := by
  unfold tickService at h
  split at h
  · cases h
  · split at h
    · cases h
      exact .of_eq (State.tickReturn_cfg _ _ _) (State.tickReturn_output _ _ _)
    · cases h
      exact .of_eq rfl rfl
    · split at h
      · exact andThen_trapAt_extends (fun u => u.enterTickRun_cfg caller) (fun u => u.enterTickRun_output caller) h
      · cases h
        exact .of_eq (State.tickReturn_cfg _ _ _) (State.tickReturn_output _ _ _)

/-- Tick, steps 3 and 4: an instruction, or the return (R177). -/
theorem tickRun_extends {caller : Caller} {s t : State} (h : tickRun caller s = .next t) : s.Extends t := by
  unfold tickRun at h
  split at h
  · cases h
  · split at h
    · exact runInstr_extends h
    · cases h
      exact .of_eq (State.tickReturn_cfg _ _ _) (State.tickReturn_output _ _ _)

/-- `RunScheduler` between rounds: its end, or the start of a round (R183, R188). -/
theorem scheduleStep_extends {s t : State} (h : scheduleStep s = .next t) : s.Extends t := by
  unfold scheduleStep at h
  split at h <;> cases h
  · exact .of_eq rfl rfl
  · exact .of_eq (State.beginRound_cfg _ _) (State.beginRound_output _ _)

/-- One step, by the operation in progress. -/
theorem step_extends {s t : State} (h : step s = .next t) : s.Extends t := by
  unfold step at h
  split at h
  · exact hostStep_extends h
  · exact driveStep_extends h
  · exact runForStep_extends h
  · next phase caller _ =>
      cases phase with
      | service => exact tickService_extends h
      | run budget => exact tickRun_extends h
  · exact scheduleStep_extends h

/-- Settles O41, by cases on the operation in progress: a trap service appends its events, and nothing else emits. -/
theorem parametersFixedAndOutputAppended : Obligations.ParametersFixedAndOutputAppended := by
  intro s t h
  obtain ⟨hcfg, events, hout⟩ := step_extends h
  exact ⟨hcfg, events, hout.symm⟩

end Sys2Proof.Machine

/-! PROOFS. The arithmetic of the flags and of sign extension, and the inspections (10_state.md R27, R38; 00_scope.md R7). -/

namespace Sys2Proof.Machine

/-- Sign extension keeps the field in the low bits (R7). -/
theorem setWidth_sext {n : Nat} (hn : n ≤ 16) (f : BitVec n) : (sext f).setWidth n = f := by
  ext i hi
  have inWord : i < 16 := by omega
  simp [sext, BitVec.getElem_signExtend, hi, inWord]

/-- R7's formula: below bit `n` both sides are the field; from bit `n` on both are its top bit. -/
theorem sext_eq {n : Nat} (hn : n ≤ 16) (f : BitVec n) :
    sext f = if f.getLsbD (n - 1) then f.setWidth 16 ||| (0xFFFF#16 <<< n) else f.setWidth 16 := by
  ext i hi
  by_cases low : i < n
  · split <;> simp [sext, BitVec.getElem_signExtend, low]
  · have past : f.getLsbD i = false := BitVec.getLsbD_of_ge f i (by omega)
    have ones : (0xFFFF#16)[i - n] = true := BitVec.getElem_allOnes _ (by omega)
    split <;> simp [sext, BitVec.getElem_signExtend, BitVec.msb_eq_getLsbD_last, *]

/-- Settles O31: the flags are `flagsOf` of the word, and sign extension is bit by bit. -/
theorem flagUpdateAndSignExtension : Obligations.FlagUpdateAndSignExtension := by
  refine ⟨fun v w => ⟨rfl, ?_⟩, fun n hn f => ?_⟩
  · rw [Vm.setcc_flags, flagsOf]
    split
    · exact .inr (.inl rfl)
    · split
      · exact .inl rfl
      · exact .inr (.inr rfl)
  · have fits : n ≤ 16 := by omega
    exact ⟨sext_eq fits f, setWidth_sext fits f⟩

/-- An inspection that has an answer gives it, and changes nothing else (R38). -/
theorem hostInspect_of_answer {s : State} {i : Nat} {v : Vm} {q : Query} {r : Reply} (hv : s.vmAt i = some v)
    (hr : v.answer q = .ok r) : hostInspect i q s = .next (s.reply r) := by
  simp [hostInspect, hv, hr]

/-- An inspection that has no value is refused (R38). -/
theorem hostInspect_of_error {s : State} {i : Nat} {v : Vm} {q : Query} {e : Refusal} (hv : s.vmAt i = some v)
    (he : v.answer q = .error e) : hostInspect i q s = .refused e := by
  simp [hostInspect, hv, he]

/-- The accessor has a value exactly while Trapped (R38). -/
theorem Vm.trapNumber_eq_some_iff (v : Vm) (n : BitVec 8) : v.trapNumber = some n ↔ v.run = .trapped n := by
  unfold Vm.trapNumber
  split <;> simp_all

/-- Settles O50: an inspection gives the VM's answer, and the accessor has one only while Trapped. -/
theorem inspectionAnswers : Obligations.InspectionAnswers := by
  intro s i v hv
  refine ⟨hostInspect_of_answer hv rfl, hostInspect_of_answer hv rfl, fun n hn => ?_, fun hn => ?_⟩
  · have number : v.trapNumber = some n := (v.trapNumber_eq_some_iff n).mpr hn
    exact ⟨hostInspect_of_answer hv (by simp [Vm.answer, number]), hostInspect_of_answer hv (by simp [Vm.answer, number])⟩
  · have number : v.trapNumber = none :=
      Option.eq_none_iff_forall_ne_some.mpr fun n e => hn n ((v.trapNumber_eq_some_iff n).mp e)
    exact ⟨hostInspect_of_answer hv (by simp [Vm.answer, number]), hostInspect_of_error hv (by simp [Vm.answer, number])⟩

end Sys2Proof.Machine

/-! PROOFS. What an instruction and a service leave of the flags, the registers and the pending key of their VM
(10_state.md R22, R28, R33; 44_trap_services.md R150 to R157). -/

namespace Sys2Proof.Machine

/-! ### Instructions -/

/-- BR changes pc alone, whether it branches or not (R130). -/
theorem Vm.effect_br (v : Vm) (cfg : Config) (cond : CondBits) (off : BitVec 9) :
    ∃ target, v.effect cfg (.br cond off) = { v with pc := target } := by
  simp only [Vm.effect]
  split
  · exact ⟨_, rfl⟩
  · exact ⟨v.pc, rfl⟩

/-- Only a flag-updating instruction writes the flags, while `JSR_SETS_FLAGS` is false (R28). -/
theorem Vm.effect_flags_of_not_updates (v : Vm) {cfg : Config} {i : Instr} (hcfg : cfg.jsrSetsFlags = false)
    (hi : updatesFlags i = false) : (v.effect cfg i).flags = v.flags := by
  cases i with
  | br cond off =>
    obtain ⟨target, e⟩ := v.effect_br cfg cond off
    rw [e]
  | jsr | jsrr => simp [Vm.effect, Vm.link, hcfg]
  | addReg | addImm | andReg | andImm | not | ld | ldi | ldr | lea => cases hi
  | st | sti | str | jmp | rti | res | trap | getc | out | puts | in_ | putsp | halt =>
    simp [Vm.effect, Vm.afterIndirect]

/-- An instruction writes at most the register that `writesReg` names, while `TRAP_WRITES_R7` is false (R22). -/
theorem Vm.effect_reg_of_not_written (v : Vm) {cfg : Config} {i : Instr} {r : RegIdx} (hcfg : cfg.trapWritesR7 = false)
    (hi : writesReg i ≠ some r) : (v.effect cfg i).reg r = v.reg r := by
  have other {dr : RegIdx} (h : writesReg i = some dr) : r ≠ dr := fun e => hi (e ▸ h)
  cases i with
  | br cond off =>
    obtain ⟨target, e⟩ := v.effect_br cfg cond off
    rw [e]; rfl
  | jsr | jsrr =>
    change (v.link cfg).reg r = v.reg r
    rw [Vm.reg_link, if_neg (other rfl)]
  | addReg | addImm | andReg | andImm | not | lea =>
    exact (Vm.reg_writeResult ..).trans (if_neg (other rfl))
  | ld | ldr => exact (Vm.reg_loadInto ..).trans (if_neg (other rfl))
  | ldi => simp [Vm.effect, Vm.afterIndirect, other rfl]
  | trap | getc | out | puts | in_ | putsp | halt => simp [Vm.effect, hcfg]
  | jmp => rfl
  | st | sti | str | rti | res => simp [Vm.effect, Vm.afterIndirect]

/-- A read leaves the pending key, or consumes it (R44). -/
theorem Vm.afterRead_pending (v : Vm) (a : Word) : (v.afterRead a).pending = v.pending ∨ (v.afterRead a).pending = none := by
  rcases v.afterRead_cases a with ⟨-, e⟩ | ⟨-, e⟩
  · exact .inl (by rw [e])
  · exact .inr (by rw [e, Vm.latchKey_pending])

/-- An instruction brings no key: it leaves the pending one, or consumes it by a read (R44). -/
theorem Vm.effect_pending (v : Vm) (cfg : Config) (i : Instr) :
    (v.effect cfg i).pending = v.pending ∨ (v.effect cfg i).pending = none := by
  cases i with
  | br cond off =>
    obtain ⟨target, e⟩ := v.effect_br cfg cond off
    exact .inl (by rw [e])
  | ld | ldr => simpa [Vm.effect] using v.afterRead_pending _
  | ldi dr off =>
    have load : (v.effect cfg (.ldi dr off)).pending = ((v.afterIndirect off).afterRead (v.indirect off)).pending :=
      Vm.loadInto_pending ..
    rw [load]
    rcases (v.afterIndirect off).afterRead_pending (v.indirect off) with kept | gone
    · exact kept ▸ v.afterRead_pending (v.pcRel9 off)
    · exact .inr gone
  | sti sr off => simpa [Vm.effect, Vm.afterIndirect] using v.afterRead_pending _
  | _ => exact .inl (by simp [Vm.effect])

/-! ### Services -/

/-- The VM a service leaves: GETC and IN take a key into R0, HALT stops it, and nothing else changes it (R151 to R157). -/
theorem serviceFor_vm {cfg : Config} {draw : Nat} {v : Vm} {n : Byte} {r : Served} (h : serviceFor cfg draw v n = some r) :
    ((n = 0x20#8 ∨ n = 0x23#8) ∧ ∃ w, r.vm = v.receiveKey cfg w) ∨ r.vm = v ∨ r.vm = v.stop := by
  unfold serviceFor at h
  split at h
  · cases h; exact .inl ⟨.inl (BitVec.eq_of_toNat_eq ‹_›), _, rfl⟩
  · cases h; exact .inr (.inl rfl)
  · unfold servicePuts at h
    split at h <;> cases h
    exact .inr (.inl rfl)
  · cases h; exact .inl ⟨.inr (BitVec.eq_of_toNat_eq ‹_›), _, rfl⟩
  · unfold servicePutsp at h
    split at h <;> cases h
    exact .inr (.inl rfl)
  · cases h; exact .inr (.inr rfl)
  · cases h; exact .inr (.inl rfl)

/-- On a Stopped VM `Trap(n)` does nothing (R150). -/
theorem Vm.trapService_of_stopped {v : Vm} (h : v.run = .stopped) (cfg : Config) (draw : Nat) (n : Byte) :
    v.trapService cfg draw n = some (serviceOther v) := by
  simp [Vm.trapService, h]

/-- No service writes the flags, while `TRAP_SETS_FLAGS` is false (R150). -/
theorem Vm.trapService_flags {v : Vm} {cfg : Config} {draw : Nat} {n : Byte} {r : Served}
    (hcfg : cfg.trapSetsFlags = false) (h : v.trapService cfg draw n = some r) : r.vm.flags = v.flags := by
  rcases Vm.trapService_cases h with ⟨-, rfl⟩ | ⟨-, -, served⟩
  · rfl
  · rcases served.flags with e | ⟨set, -⟩
    · exact e
    · cases set.symm.trans hcfg

/-- A service writes R0 alone, and only GETC and IN do (R22). -/
theorem Vm.trapService_reg {v : Vm} {cfg : Config} {draw : Nat} {n : Byte} {r : Served} {q : RegIdx}
    (h : v.trapService cfg draw n = some r) :
    r.vm.reg q = v.reg q ∨ (q = 0 ∧ (n = 0x20#8 ∨ n = 0x23#8)) := by
  rcases Vm.trapService_cases h with ⟨-, rfl⟩ | ⟨-, served, -⟩
  · exact .inl rfl
  · rcases serviceFor_vm served with ⟨hn, w, e⟩ | e | e
    · by_cases hq : q = 0
      · exact .inr ⟨hq, hn⟩
      · exact .inl (by simp [e, hq])
    · exact .inl (by rw [e, Vm.reg_resume])
    · exact .inl (by rw [e, Vm.reg_stop, Vm.reg_resume])

/-- A service brings no key (R33). -/
theorem Vm.trapService_pending {v : Vm} {cfg : Config} {draw : Nat} {n : Byte} {r : Served}
    (h : v.trapService cfg draw n = some r) : r.vm.pending = v.pending ∨ r.vm.pending = none := by
  rcases Vm.trapService_cases h with ⟨-, rfl⟩ | ⟨-, served, -⟩
  · exact .inl rfl
  · rcases serviceFor_vm served with ⟨-, w, e⟩ | e | e
    · exact .inr (by rw [e, Vm.receiveKey_pending])
    · exact .inl (by rw [e, Vm.resume_pending])
    · exact .inl (by rw [e, Vm.stop_pending, Vm.resume_pending])

/-- No service touches the blocked bits (R150). -/
theorem Vm.trapService_sameBlocked {v : Vm} {cfg : Config} {draw : Nat} {n : Byte} {r : Served}
    (h : v.trapService cfg draw n = some r) : v.SameBlocked r.vm := by
  rcases Vm.trapService_cases h with ⟨-, rfl⟩ | ⟨-, -, served⟩
  · exact ⟨rfl, rfl, rfl⟩
  · exact served.blocked

/-! ### Loading and the end of a Tick -/

/-- A Load that is performed changes memory alone (R53). -/
theorem Vm.load_eq {v v' : Vm} {img : Image} (h : v.load img = some v') :
    v' = { v with mem := v.mem.writeWords img.origin img.words } := by
  unfold Vm.load at h
  split at h <;> simp_all

/-- A loader that is performed changes memory alone, and keeps its canonical form (R53, R182). -/
theorem Vm.loadAll_eq {images : List Image} {v v' : Vm} (h : v.loadAll images = some v') :
    ∃ m : Memory, v' = { v with mem := m } ∧ (v.mem.wf = true → m.wf = true) := by
  induction images generalizing v with
  | nil =>
    cases h
    exact ⟨_, rfl, id⟩
  | cons img rest ih =>
    unfold Vm.loadAll at h
    split at h
    · next w loaded =>
      obtain ⟨m, e, wf⟩ := ih h
      cases Vm.load_eq loaded
      exact ⟨m, e, fun hv => wf (Memory.writeWords_wf hv _ _)⟩
    · cases h

/-- The end of a Tick sets no blocked bit of a Stopped VM (R177). -/
theorem Vm.block_of_stopped {v : Vm} (h : v.run = .stopped) : v.block = v := by
  simp [Vm.block, h]

end Sys2Proof.Machine

/-! PROOFS. Who changes the flags, the registers, the execution state and the pending key of a VM: each statement is a case
analysis on the one move a step makes of a VM (10_state.md R22, R28, R32, R33). -/

namespace Sys2Proof.Machine

/-- What one step made of a VM there was. -/
theorem move_of_step {s t : State} {j : Nat} {v v' : Vm} (h : step s = .next t) (hv : s.vmAt j = some v)
    (hv' : t.vmAt j = some v') : s.Move j v v' := by
  obtain ⟨w, hw, hm⟩ := step_move h hv
  cases hv'.symm.trans hw
  exact hm

/-- Settles O42: of the moves of a VM only a flag-updating instruction and Reset write the flags. -/
theorem onlyFlagUpdatersWriteFlags : Obligations.OnlyFlagUpdatersWriteFlags := by
  intro s t j v v' h hv hv' hjsr htrap changed
  cases move_of_step h hv hv' with
  | same => exact absurd rfl changed
  | instr turn here =>
    refine .inl ⟨turn, here, ?_⟩
    by_contra hi
    exact changed ((Vm.effect_flags_of_not_updates _ hjsr (Bool.eq_false_of_not_eq_true hi)).trans v.afterFetch_flags)
  | service n r served => exact absurd (Vm.trapService_flags htrap served) changed
  | block => exact absurd v.block_flags changed
  | reset idle call => exact .inr ⟨idle, call⟩
  | load img _ _ _ loaded => exact absurd (congrArg Vm.flags (Vm.load_eq loaded)) changed
  | setKey | key | clear => exact absurd rfl changed

/-- Settles O43: of the moves of a VM only an instruction with that destination, GETC, IN and Reset write a register. -/
theorem onlyListedWritersWriteRegisters : Obligations.OnlyListedWritersWriteRegisters := by
  intro s t j v v' q h hv hv' htrap changed
  cases move_of_step h hv hv' with
  | same => exact absurd rfl changed
  | instr turn here =>
    refine .inl ⟨turn, here, ?_⟩
    by_contra hi
    exact changed ((Vm.effect_reg_of_not_written _ htrap hi).trans (v.reg_afterFetch q))
  | service n r served who =>
    rcases Vm.trapService_reg served with same | ⟨hq, rfl | rfl⟩
    · exact absurd same changed
    · exact .inr (.inl ⟨hq, .inl who⟩)
    · exact .inr (.inl ⟨hq, .inr who⟩)
  | block => exact absurd (v.reg_block q) changed
  | reset idle call => exact .inr (.inr ⟨idle, call⟩)
  | load img _ _ _ loaded => exact absurd (congrArg (Vm.reg · q) (Vm.load_eq loaded)) changed
  | setKey | key | clear => exact absurd rfl changed

/-- Settles O45: an instruction leaves the state its row names, a service Running or Stopped, Reset Running, and no
other move touches the execution state. -/
theorem onlyListedEventsChangeRunState : Obligations.OnlyListedEventsChangeRunState := by
  intro s t j v v' h hv hv' changed
  cases move_of_step h hv hv' with
  | same => exact absurd rfl changed
  | instr turn here =>
    refine .inl ⟨turn, here, ?_⟩
    have run := v.afterFetch.effect_run s.cfg v.nextInstr
    change newRunState v.nextInstr = _
    cases new : newRunState v.nextInstr with
    | none => exact absurd (by simpa [new] using run) changed
    | some n => simp [run, new]
  | service n r served who =>
    rcases Vm.trapService_cases served with ⟨-, rfl⟩ | ⟨-, -, frame⟩
    · exact absurd rfl changed
    · exact .inr (.inl ⟨⟨n, who⟩, frame.run⟩)
  | block => exact absurd v.block_run changed
  | reset idle call => exact .inr (.inr ⟨⟨idle, call⟩, rfl⟩)
  | load img _ _ _ loaded => exact absurd (congrArg Vm.run (Vm.load_eq loaded)) changed
  | setKey | key | clear => exact absurd rfl changed

/-- A polled key is the host's next one (R190). -/
theorem State.keys_of_polledKey {s : State} {k : Word} (h : s.polledKey = some k) : s.keys.head? = some (some k) := by
  unfold State.polledKey at h
  split at h <;> simp_all

/-- SetKey, in every execution state (R192). -/
theorem hostCall_setKey {s : State} {i : Nat} {v : Vm} (k : Word) (hv : s.vmAt i = some v) :
    hostCall (.setKey i k) s = .next (s.onVmAt i fun v => v.setKey k) := by
  simp [hostCall, onVmCall, hv]

/-- Settles O46: SetKey by its definition; and every move but SetKey and delivery keeps the pending key or consumes it. -/
theorem keysReachOnlyTheOwner : Obligations.KeysReachOnlyTheOwner := by
  refine ⟨fun s i v k hv => ?_, fun s t j v v' k h hv hv' arrived new => ?_⟩
  · exact ⟨_, hostCall_setKey k hv, s.sameBut_onVmAt i _, by simp [State.vmAt_onVmAt, hv]; rfl⟩
  · have kept (e : v'.pending = v.pending ∨ v'.pending = none) : False := by
      rcases e with e | e
      · exact new (e.symm.trans arrived)
      · cases e.symm.trans arrived
    cases move_of_step h hv hv' with
    | same => exact (kept (.inl rfl)).elim
    | instr =>
      rcases v.afterFetch.effect_pending s.cfg v.nextInstr with e | e
      · rw [v.afterFetch_pending] at e
        exact (kept ((v.afterRead_pending v.pc).imp e.trans e.trans)).elim
      · exact (kept (.inr e)).elim
    | service n r served => exact (kept (Vm.trapService_pending served)).elim
    | block => exact (kept (.inl v.block_pending)).elim
    | load img _ _ _ loaded =>
      cases Vm.load_eq loaded
      exact (kept (.inl rfl)).elim
    | setKey k' idle call =>
      cases arrived
      exact .inl ⟨idle, call⟩
    | key k' round owner polled other =>
      cases arrived
      exact .inr ⟨round, owner, State.keys_of_polledKey polled, other⟩
    | reset | clear => exact (kept (.inl rfl)).elim

/-- Settles O47: a Stopped VM runs no instruction, a service or the end of a Tick leaves it as it is, and the other moves
touch neither its execution state nor its registers, flags and pc. -/
theorem stoppedIsAbsorbing : Obligations.StoppedIsAbsorbing := by
  intro s t j v h hv stopped noReset
  obtain ⟨v', hv', hm⟩ := step_move h hv
  refine ⟨v', hv', ?_⟩
  cases hm with
  | same => exact ⟨stopped, fun _ => rfl, rfl, rfl⟩
  | instr _ _ running => cases stopped.symm.trans running
  | service n r served =>
    cases (Vm.trapService_of_stopped stopped ..).symm.trans served
    exact ⟨stopped, fun _ => rfl, rfl, rfl⟩
  | block =>
    rw [Vm.block_of_stopped stopped]
    exact ⟨stopped, fun _ => rfl, rfl, rfl⟩
  | reset idle call => exact absurd ⟨idle, call⟩ noReset
  | load img _ _ _ loaded =>
    cases Vm.load_eq loaded
    exact ⟨stopped, fun _ => rfl, rfl, rfl⟩
  | setKey | key | clear => exact ⟨stopped, fun _ => rfl, rfl, rfl⟩

end Sys2Proof.Machine

/-! PROOFS. What a step of the block answers, said once: the next state by the operation in progress, each branch with its
guards (00_scope.md R6). -/

namespace Sys2Proof.Machine

/-- The block with the next host call taken from the script. -/
def State.called (s : State) : State := { s with script := s.script.tail }

/-- The VM a service was performed on is there afterwards. -/
theorem vmAt_of_trapAt {i : Nat} {n : Byte} {s t : State} (h : trapAt i n s = .next t) : ∃ v, t.vmAt i = some v := by
  obtain ⟨v, r, here, -, rfl⟩ := trapAt_eq_next h
  refine ⟨r.vm, ?_⟩
  change (s.onVmAt i fun _ => r.vm).vmAt i = some r.vm
  simp [State.vmAt_onVmAt, here]

/-- What a host call answers from `s`, whose script it stands first in (R193). -/
inductive State.CallAnswers (s : State) : HostCall → State → Prop where
  | construct (early : s.started = false) :
      s.CallAnswers .construct ((s.called.append (Vm.construct s.cfg s.draws) false).drawn 1)
  | addVm (images : List Image) (v : Vm) (early : s.started = false)
      (loaded : (Vm.construct s.cfg s.draws).loadAll images = some v) :
      s.CallAnswers (.addVm images) ((s.called.join v.reset).drawn 1)
  | reset (i : Nat) : s.CallAnswers (.reset i) (s.called.onVmAt i Vm.reset)
  | load (i : Nat) (img : Image) (v v' : Vm) (here : s.vmAt i = some v) (loaded : v.load img = some v') :
      s.CallAnswers (.load i img) (s.called.onVmAt i fun _ => v')
  | setKey (i : Nat) (k : Word) : s.CallAnswers (.setKey i k) (s.called.onVmAt i fun v => v.setKey k)
  | runFor (i : Nat) (ticks : Option Int) (here : i < s.vms.length) :
      s.CallAnswers (.runFor i ticks) { s.called with cur := i, activity := .runFor (budgetOf ticks) }
  | trap (i : Nat) (n : Word) (u : State) (v : Vm) (served : trapAt i (lowByte n) s.called = .next u)
      (there : u.vmAt i = some v) : s.CallAnswers (.trap i n) (u.reply (.state v.run))
  | tick (i : Nat) (here : i < s.vms.length) :
      s.CallAnswers (.tick i) { s.called with cur := i, activity := .tick .service .host }
  | inspect (i : Nat) (q : Query) (v : Vm) (reply : Reply) (here : s.vmAt i = some v) (answer : v.answer q = .ok reply) :
      s.CallAnswers (.inspect i q) (s.called.reply reply)
  | cycleOwner : s.CallAnswers .cycleOwner s.called.cycleOwner
  | round (joined : ∀ slot ∈ s.vms, slot.joined = true) :
      s.CallAnswers .round ({ s.called with started := true }.beginRound false)
  | runScheduler (joined : ∀ slot ∈ s.vms, slot.joined = true) :
      s.CallAnswers .runScheduler { s.called with started := true, activity := .schedule }
  | drive (i : Nat) (here : i < s.vms.length) : s.CallAnswers (.drive i) { s.called with cur := i, activity := .drive }

/-- Everything a step can answer, by the operation in progress, each branch with its guards (R6). -/
inductive State.Answers (s : State) : State → Prop where
  | noCall (idle : s.activity = .idle) (noneLeft : s.script = []) : s.Answers s
  | call (c : HostCall) (t : State) (call : s.HostCalls c) (answer : s.CallAnswers c t) : s.Answers t
  | instr (v : Vm) (turn : s.engineTurn = true) (here : s.vm? = some v) (running : v.run = .running) :
      s.Answers (s.afterFetch.onVm fun v' => v'.effect s.cfg v.nextInstr).spendTick
  | driveTrap (v : Vm) (n : Byte) (t : State) (drive : s.activity = .drive) (here : s.vm? = some v)
      (trapped : v.run = .trapped n) (served : trapAt s.cur n s = .next t) : s.Answers t
  | driveEnd (v : Vm) (drive : s.activity = .drive) (here : s.vm? = some v) (stopped : v.run = .stopped) :
      s.Answers { s with activity := .idle }
  | runForReturn (v : Vm) (budget : Option Nat) (runFor : s.activity = .runFor budget) (here : s.vm? = some v)
      (ended : s.engineTurn = false) : s.Answers ({ s with activity := .idle }.reply (.state v.run))
  | tickStopped (v : Vm) (c : Caller) (tick : s.activity = .tick .service c) (here : s.vm? = some v)
      (stopped : v.run = .stopped) : s.Answers (s.tickReturn c false)
  | tickBlocked (v : Vm) (n : Byte) (c : Caller) (tick : s.activity = .tick .service c) (here : s.vm? = some v)
      (trapped : v.run = .trapped n) (blocked : v.unblocked = false) : s.Answers (s.tickReturn c true)
  | tickEnter (v : Vm) (c : Caller) (tick : s.activity = .tick .service c) (here : s.vm? = some v)
      (running : v.run = .running) : s.Answers (s.enterTickRun c)
  | tickTrap (v : Vm) (n : Byte) (c : Caller) (u : State) (tick : s.activity = .tick .service c) (here : s.vm? = some v)
      (trapped : v.run = .trapped n) (unblocked : v.unblocked = true) (served : trapAt s.cur n s = .next u) :
      s.Answers (u.enterTickRun c)
  | tickReturn (v : Vm) (budget : Nat) (c : Caller) (tick : s.activity = .tick (.run budget) c) (here : s.vm? = some v)
      (ended : s.engineTurn = false) : s.Answers ((s.onVm Vm.block).tickReturn c v.alive)
  | scheduleEnd (schedule : s.activity = .schedule) (noneRuns : s.running = 0) : s.Answers { s with activity := .idle }
  | scheduleRound (schedule : s.activity = .schedule) (someRuns : s.running ≠ 0) : s.Answers (s.beginRound true)

/-- The host's calls, one by one (R193). -/
theorem hostCall_answers {s t : State} {c : HostCall} (h : hostCall c s.called = .next t) : s.CallAnswers c t := by
  cases c with
  | construct =>
    simp only [hostCall, hostConstruct] at h
    split at h <;> cases h
    exact .construct (Bool.eq_false_of_not_eq_true ‹_›)
  | addVm images =>
    simp only [hostCall, addVm] at h
    split at h
    · cases h
    · split at h <;> cases h
      exact .addVm images _ (Bool.eq_false_of_not_eq_true ‹_›) ‹_›
  | reset i =>
    simp only [hostCall, onVmCall] at h
    split at h <;> cases h
    exact .reset i
  | load i img =>
    simp only [hostCall, hostLoad] at h
    split at h
    · cases h
    · split at h <;> cases h
      exact .load i img _ _ ‹_› ‹_›
  | setKey i k =>
    simp only [hostCall, onVmCall] at h
    split at h <;> cases h
    exact .setKey i k
  | trap i n =>
    obtain ⟨u, served, rfl⟩ := andThen_eq_next h
    obtain ⟨w, there⟩ := vmAt_of_trapAt served
    simp only [there]
    exact .trap i n u w served there
  | inspect i q =>
    simp only [hostCall, hostInspect] at h
    split at h
    · cases h
    · split at h <;> cases h
      exact .inspect i q _ _ ‹_› ‹_›
  | cycleOwner =>
    cases h
    exact .cycleOwner
  | round =>
    simp only [hostCall, startRounds] at h
    split at h <;> cases h
    exact .round (List.all_eq_true.mp ‹_›)
  | runScheduler =>
    simp only [hostCall, startRounds] at h
    split at h <;> cases h
    exact .runScheduler (List.all_eq_true.mp ‹_›)
  | runFor i ticks =>
    simp only [hostCall, beginOn] at h
    split at h <;> cases h
    exact .runFor i ticks (State.lt_of_vmAt (s := s) ‹_›)
  | tick i =>
    simp only [hostCall, beginOn] at h
    split at h <;> cases h
    exact .tick i (State.lt_of_vmAt (s := s) ‹_›)
  | drive i =>
    simp only [hostCall, beginOn] at h
    split at h <;> cases h
    exact .drive i (State.lt_of_vmAt (s := s) ‹_›)

theorem hostStep_answers {s t : State} (idle : s.activity = .idle) (h : hostStep s = .next t) : s.Answers t := by
  unfold hostStep at h
  split at h
  · cases h
    exact .noCall idle ‹_›
  · next c rest hs =>
    have called : { s with script := rest } = s.called := by simp [State.called, hs]
    rw [called] at h
    exact .call c t ⟨idle, by rw [hs]; rfl⟩ (hostCall_answers h)

/-- An iteration of the engine's loop (R73). -/
theorem runInstr_answers {s t : State} {v : Vm} (turn : s.engineTurn = true) (here : s.vm? = some v)
    (h : runInstr v s = .next t) : s.Answers t := by
  obtain ⟨-, w, hw, running⟩ := (State.engineTurn_iff s).mp turn
  cases here.symm.trans hw
  cases (runInstr_eq v s).symm.trans h
  exact .instr v turn here running

/-- The boot loop, by the execution state (R214). -/
theorem driveStep_answers {s t : State} (drive : s.activity = .drive) (h : driveStep s = .next t) : s.Answers t := by
  unfold driveStep at h
  split at h
  · cases h
  · next v here =>
    split at h
    · next running => exact runInstr_answers ((State.engineTurn_iff s).mpr ⟨by rw [drive]; rfl, v, here, running⟩) here h
    · next n trapped => exact .driveTrap v n t drive here trapped h
    · next stopped =>
      cases h
      exact .driveEnd v drive here stopped

theorem runForStep_answers {s t : State} {budget : Option Nat} (runFor : s.activity = .runFor budget)
    (h : runForStep s = .next t) : s.Answers t := by
  unfold runForStep at h
  split at h
  · cases h
  · next v here =>
    split at h
    · exact runInstr_answers ‹_› here h
    · cases h
      exact .runForReturn v budget runFor here (Bool.eq_false_of_not_eq_true ‹_›)

/-- Tick, steps 1 and 2, by the execution state (R177). -/
theorem tickService_answers {s t : State} {c : Caller} (tick : s.activity = .tick .service c)
    (h : tickService c s = .next t) : s.Answers t := by
  unfold tickService at h
  split at h
  · cases h
  · next v here =>
    split at h
    · next stopped =>
      cases h
      exact .tickStopped v c tick here stopped
    · next running =>
      cases h
      exact .tickEnter v c tick here running
    · next n trapped =>
      split at h
      · next unblocked =>
        obtain ⟨u, served, rfl⟩ := andThen_eq_next h
        exact .tickTrap v n c u tick here trapped unblocked served
      · next blocked =>
        cases h
        exact .tickBlocked v n c tick here trapped (Bool.eq_false_of_not_eq_true blocked)

/-- Tick, steps 3 and 4 (R177). -/
theorem tickRun_answers {s t : State} {budget : Nat} {c : Caller} (tick : s.activity = .tick (.run budget) c)
    (h : tickRun c s = .next t) : s.Answers t := by
  unfold tickRun at h
  split at h
  · cases h
  · next v here =>
    split at h
    · exact runInstr_answers ‹_› here h
    · cases h
      exact .tickReturn v budget c tick here (Bool.eq_false_of_not_eq_true ‹_›)

theorem scheduleStep_answers {s t : State} (schedule : s.activity = .schedule) (h : scheduleStep s = .next t) :
    s.Answers t := by
  unfold scheduleStep at h
  split at h <;> cases h
  · exact .scheduleEnd schedule ‹_›
  · exact .scheduleRound schedule ‹_›

/-- WHAT A STEP ANSWERS, said once: one of these states. -/
theorem step_answers {s t : State} (h : step s = .next t) : s.Answers t := by
  unfold step at h
  split at h
  · exact hostStep_answers ‹_› h
  · exact driveStep_answers ‹_› h
  · exact runForStep_answers ‹_› h
  · next phase c tick =>
    cases phase with
    | service => exact tickService_answers tick h
    | run budget => exact tickRun_answers tick h
  · exact scheduleStep_answers ‹_› h

end Sys2Proof.Machine

/-! PROOFS. What the block's operations leave of the VMs and of their marks (10_state.md R36, R39). -/

namespace Sys2Proof.Machine

/-! ### One VM of the collection -/

theorem State.vmAt_congr {s t : State} (h : t.vms = s.vms) (j : Nat) : t.vmAt j = s.vmAt j := by
  simp [State.vmAt, h]

theorem State.vmAt_onVmAt_other (s : State) {i j : Nat} (f : Vm → Vm) (hj : j ≠ i) : (s.onVmAt i f).vmAt j = s.vmAt j :=
  (s.vmAt_onVmAt i j f).trans (if_neg hj.symm)

/-- A service touches no other VM (R39). -/
theorem vmAt_trapAt_other {i j : Nat} {n : Byte} {s t : State} (h : trapAt i n s = .next t) (hj : j ≠ i) :
    t.vmAt j = s.vmAt j := by
  obtain ⟨v, r, -, -, rfl⟩ := trapAt_eq_next h
  exact s.vmAt_onVmAt_other (fun _ => r.vm) hj

theorem State.vmAt_markCounted (s : State) (i j : Nat) : (s.markCounted i).vmAt j = s.vmAt j := by
  simp only [State.vmAt, State.markCounted, List.getElem?_modify]
  split
  · cases s.vms[j]? <;> rfl
  · simp

theorem State.vmAt_account (s : State) (alive : Bool) (j : Nat) : (s.account alive).vmAt j = s.vmAt j := by
  unfold State.account
  split
  · rfl
  · split
    · exact s.vmAt_markCounted s.cur j
    · rfl

/-- The return of a Tick changes no VM (R187 adds a mark only). -/
theorem State.vmAt_tickReturn (s : State) (c : Caller) (alive : Bool) (j : Nat) :
    (s.tickReturn c alive).vmAt j = s.vmAt j := by
  cases c with
  | host => rfl
  | round inScheduler => exact (State.vmAt_congr (State.nextInRound_vms _ _) j).trans (s.vmAt_account alive j)

/-- The VM at `cur` after its fetch. -/
theorem State.vmAt_afterFetch {s : State} {v w : Vm} (here : s.vm? = some v) (hw : s.afterFetch.vmAt s.cur = some w) :
    w = v.afterFetch := by
  have fetched : s.afterFetch.vm? = some v.afterFetch := by simp [State.afterFetch, here]
  exact Option.some.inj (hw.symm.trans fetched)

/-! ### What holds of every VM -/

/-- What holds of every VM, said of its index. -/
theorem State.forall_vms_iff {P : Vm → Prop} (s : State) :
    (∀ slot ∈ s.vms, P slot.vm) ↔ ∀ (j : Nat) (v : Vm), s.vmAt j = some v → P v := by
  constructor
  · intro h j v hv
    obtain ⟨slot, hs, rfl⟩ := Option.map_eq_some_iff.mp hv
    exact h slot (List.mem_of_getElem? hs)
  · intro h slot hs
    obtain ⟨j, hj⟩ := List.getElem?_of_mem hs
    exact h j slot.vm (by simp [State.vmAt, hj])

/-- A change of one VM keeps what holds of every VM, if it keeps it of that one. -/
theorem State.forall_onVmAt {P : Vm → Prop} {s : State} {i : Nat} {f : Vm → Vm} (h : ∀ slot ∈ s.vms, P slot.vm)
    (hf : ∀ v, s.vmAt i = some v → P v → P (f v)) : ∀ slot ∈ (s.onVmAt i f).vms, P slot.vm := by
  intro slot hs
  rcases State.mem_onVmAt hs with old | ⟨old, mem, here, rfl⟩
  · exact h slot old
  · exact hf old.vm (by simp [State.vmAt, here]) (h old mem)

/-- Two blocks with the same VMs agree on what holds of every VM. -/
theorem State.forall_vms_congr {P : Vm → Prop} {s t : State} (h : ∀ slot ∈ s.vms, P slot.vm)
    (same : ∀ j, t.vmAt j = s.vmAt j) : ∀ slot ∈ t.vms, P slot.vm := by
  rw [State.forall_vms_iff] at h ⊢
  simpa only [same] using h

theorem State.forall_append {P : Vm → Prop} {s : State} (h : ∀ slot ∈ s.vms, P slot.vm) {v : Vm} (hv : P v) (joined : Bool) :
    ∀ slot ∈ (s.append v joined).vms, P slot.vm := by
  intro slot hs
  rcases List.mem_append.mp hs with old | new
  · exact h slot old
  · cases List.mem_singleton.mp new
    exact hv

/-! ### The mark that AddVm added the VM -/

/-- Two blocks with the same marks agree on who was added by AddVm. -/
theorem State.joined_congr {s t : State} {b : Bool} (h : ∀ slot ∈ s.vms, slot.joined = b)
    (same : ∀ j : Nat, t.vms[j]?.map Slot.joined = s.vms[j]?.map Slot.joined) : ∀ slot ∈ t.vms, slot.joined = b := by
  intro slot hs
  obtain ⟨j, hj⟩ := List.getElem?_of_mem hs
  have mark : s.vms[j]?.map Slot.joined = some slot.joined := by rw [← same j, hj]; rfl
  obtain ⟨old, hold, e⟩ := Option.map_eq_some_iff.mp mark
  exact e.symm.trans (h old (List.mem_of_getElem? hold))

theorem State.joined_onVmAt (s : State) (i : Nat) (f : Vm → Vm) (j : Nat) :
    (s.onVmAt i f).vms[j]?.map Slot.joined = s.vms[j]?.map Slot.joined := by
  rw [State.getElem?_onVmAt]
  split
  · cases s.vms[j]? <;> rfl
  · rfl

theorem State.joined_markCounted (s : State) (i j : Nat) :
    (s.markCounted i).vms[j]?.map Slot.joined = s.vms[j]?.map Slot.joined := by
  simp only [State.markCounted, List.getElem?_modify]
  split
  · cases s.vms[j]? <;> rfl
  · simp

theorem State.joined_account (s : State) (alive : Bool) (j : Nat) :
    (s.account alive).vms[j]?.map Slot.joined = s.vms[j]?.map Slot.joined := by
  unfold State.account
  split
  · rfl
  · split
    · exact s.joined_markCounted s.cur j
    · rfl

/-! ### The operation in progress -/

theorem activity_trapAt {i : Nat} {n : Byte} {s t : State} (h : trapAt i n s = .next t) : t.activity = s.activity := by
  obtain ⟨v, r, -, -, rfl⟩ := trapAt_eq_next h
  rfl

theorem Activity.onCur_spend (a : Activity) : a.spend.onCur = a.onCur := by
  unfold Activity.spend
  split <;> rfl

theorem Activity.inRounds_spend (a : Activity) : a.spend.inRounds = a.inRounds := by
  unfold Activity.spend
  split
  case h_6 _ c => cases c <;> rfl
  all_goals rfl

theorem Activity.spend_ne_drive {a : Activity} (h : a ≠ .drive) : a.spend ≠ .drive := by
  unfold Activity.spend
  split <;> simp_all

end Sys2Proof.Machine

/-! PROOFS. An operation in progress, and an instruction, are about one VM alone (10_state.md R39). -/

namespace Sys2Proof.Machine

/-- Settles O39: what each operation in progress answers is the block with VM `cur` changed and marks added. -/
theorem otherVmsAreUntouched : Obligations.OtherVmsAreUntouched := by
  intro s t h onCur j hj
  have notIdle : s.activity ≠ .idle := fun idle => by simp [idle, Activity.onCur] at onCur
  have notSchedule : s.activity ≠ .schedule := fun schedule => by simp [schedule, Activity.onCur] at onCur
  cases step_answers h with
  | noCall idle => exact absurd idle notIdle
  | call _ _ call => exact absurd call.1 notIdle
  | scheduleEnd schedule | scheduleRound schedule => exact absurd schedule notSchedule
  | instr v _ here => exact (State.vmAt_congr (State.vms_runInstr here) j).trans (s.vmAt_onVmAt_other _ hj)
  | driveTrap v n _ _ _ _ served => exact vmAt_trapAt_other served hj
  | tickTrap v n c u _ _ _ _ served => exact (vmAt_trapAt_other served hj : u.vmAt j = s.vmAt j)
  | driveEnd | runForReturn | tickEnter => rfl
  | tickStopped | tickBlocked => exact s.vmAt_tickReturn _ _ j
  | tickReturn => exact (State.vmAt_tickReturn _ _ _ j).trans (s.vmAt_onVmAt_other _ hj)

/-- A step that runs an instruction answers one state, whose VM at `cur` has the instruction's effect (R73). -/
theorem step_instr {s : State} {v : Vm} (turn : s.engineTurn = true) (hv : s.vm? = some v) :
    ∃ t, step s = .next t ∧ t.vmAt s.cur = some (v.afterFetch.effect s.cfg v.nextInstr) ∧ t.output = s.output := by
  refine ⟨_, (step_of_engineTurn turn hv).trans (runInstr_eq v s), ?_, rfl⟩
  change (s.afterFetch.onVm fun v' => v'.effect s.cfg v.nextInstr).vm? = _
  simp [State.afterFetch, hv]

/-- Settles O40: the effect is a function of the VM and the parameters. -/
theorem instructionsSeeTheirVmOnly : Obligations.InstructionsSeeTheirVmOnly := by
  intro s1 s2 t1 t2 turn1 turn2 hcfg hvm h1 h2
  obtain ⟨-, v, hv, -⟩ := (State.engineTurn_iff s1).mp turn1
  obtain ⟨u1, e1, hu1, ho1⟩ := step_instr turn1 hv
  obtain ⟨u2, e2, hu2, ho2⟩ := step_instr turn2 (hvm ▸ hv)
  cases e1.symm.trans h1
  cases e2.symm.trans h2
  exact ⟨by rw [hu1, hu2, hcfg], ho1, ho2⟩

end Sys2Proof.Machine

/-! PROOFS. The blocked bits under the run/block machine (10_state.md R34; 60_exceptions.md R179, R180). -/

namespace Sys2Proof.Machine

/-! ### One VM -/

theorem Vm.unblocked_iff (v : Vm) : v.unblocked = true ↔ v.blockedInput = false ∧ v.blockedOutput = false := by
  simp [Vm.unblocked]

theorem Vm.SameBlocked.unblocked {v v' : Vm} (h : v.SameBlocked v') : v'.unblocked = v.unblocked := by
  obtain ⟨input, output, -⟩ := h
  rw [Vm.unblocked, Vm.unblocked, input, output]

theorem Vm.BlockedByTrap.of_unblocked {v : Vm} (h : v.unblocked = true) : v.BlockedByTrap := by
  obtain ⟨input, output⟩ := v.unblocked_iff.mp h
  exact ⟨fun e => by simp [input] at e, fun e => by simp [output] at e⟩

/-- A Running VM is on no trap, so no bit of it is set. -/
theorem Vm.BlockedByTrap.unblocked {v : Vm} (h : v.BlockedByTrap) (running : v.run = .running) : v.unblocked = true := by
  refine v.unblocked_iff.mpr ⟨Bool.eq_false_of_not_eq_true fun e => ?_, Bool.eq_false_of_not_eq_true fun e => ?_⟩
  · obtain ⟨n, trapped, -⟩ := h.input e
    cases running.symm.trans trapped
  · obtain ⟨n, trapped, -⟩ := h.output e
    cases running.symm.trans trapped

/-- The bits exclude each other: a trap is of one class (R178). -/
theorem Vm.BlockedByTrap.not_both {v : Vm} (h : v.BlockedByTrap) : ¬ (v.blockedInput = true ∧ v.blockedOutput = true) := by
  rintro ⟨input, output⟩
  obtain ⟨n, hn, isInput⟩ := h.input input
  obtain ⟨m, hm, isOutput⟩ := h.output output
  cases hn.symm.trans hm
  cases isInput.symm.trans isOutput

theorem Vm.BlockedByTrap.afterFetch {v : Vm} (h : v.BlockedByTrap) : v.afterFetch.BlockedByTrap :=
  ⟨by simpa using h.input, by simpa using h.output⟩

/-- An instruction runs on a VM with no bit set, and sets none. -/
theorem Vm.BlockedByTrap.effect {v : Vm} (h : v.BlockedByTrap) (running : v.run = .running) (cfg : Config) (i : Instr) :
    (v.effect cfg i).BlockedByTrap :=
  .of_unblocked ((v.effect_sameBlocked cfg i).unblocked.trans (h.unblocked running))

/-- The end of a Tick sets the bit of the trap's own class (R177, R179). -/
theorem Vm.BlockedByTrap.block {v : Vm} (h : v.BlockedByTrap) : v.block.BlockedByTrap := by
  cases run : v.run with
  | running | stopped => simpa [Vm.block, run] using h
  | trapped n =>
    cases cls : trapClass n with
    | input =>
      have e : v.block = { v with blockedInput := true } := by simp [Vm.block, run, cls]
      exact e ▸ ⟨fun _ => ⟨n, run, cls⟩, h.output⟩
    | output =>
      have e : v.block = { v with blockedOutput := true } := by simp [Vm.block, run, cls]
      exact e ▸ ⟨h.input, fun _ => ⟨n, run, cls⟩⟩
    | unclassed => simpa [Vm.block, run, cls] using h

theorem Vm.BlockedByTrap.deliverKey {v : Vm} (h : v.BlockedByTrap) (k : Word) : (v.deliverKey k).BlockedByTrap :=
  ⟨nofun, h.output⟩

theorem Vm.BlockedByTrap.clearOutput {v : Vm} (h : v.BlockedByTrap) : v.clearOutput.BlockedByTrap :=
  ⟨h.input, nofun⟩

/-! ### The block -/

namespace State.BlockInv

variable {s : State}

theorem called (h : s.BlockInv) : s.called.BlockInv :=
  { h with script := fun c hc => h.script c (List.mem_of_mem_tail hc) }

theorem onVmAt (h : s.BlockInv) {i : Nat} {f : Vm → Vm}
    (hf : ∀ v, s.vmAt i = some v → v.BlockedByTrap → (f v).BlockedByTrap) : (s.onVmAt i f).BlockInv :=
  { h with vms := State.forall_onVmAt h.vms hf }

theorem onOwner (h : s.BlockInv) {f : Vm → Vm} (hf : ∀ v, v.BlockedByTrap → (f v).BlockedByTrap) :
    (s.onOwner f).BlockInv := by
  cases ho : s.owner with
  | none => rwa [State.onOwner_of_none ho]
  | some o =>
    rw [State.onOwner_of_some ho]
    exact h.onVmAt fun v _ => hf v

theorem keyStep (h : s.BlockInv) (k : Option Word) : (s.keyStep k).BlockInv := by
  unfold State.keyStep
  split
  · exact h
  · split
    · exact { h with }
    · exact h.onOwner fun _ hv => hv.deliverKey _

theorem beginRound (h : s.BlockInv) (inScheduler : Bool) : (s.beginRound inScheduler).BlockInv := by
  have polled : s.afterPoll.BlockInv := { h with }
  have cleared := (polled.keyStep s.polledKey).onOwner fun _ hv => hv.clearOutput
  unfold State.beginRound
  simp only []
  split
  · exact { cleared with activity := by cases inScheduler <;> nofun }
  · exact { cleared with activity := nofun }

/-- A service of a VM with no bit set leaves none set (R177). -/
theorem service (h : s.BlockInv) {i : Nat} {n : Byte} {t : State} (served : trapAt i n s = .next t)
    (unblocked : ∀ v, s.vmAt i = some v → v.unblocked = true) : t.BlockInv := by
  obtain ⟨v, r, here, hr, rfl⟩ := trapAt_eq_next served
  have after := h.onVmAt (i := i) (f := fun _ => r.vm) fun _ _ _ =>
    .of_unblocked ((Vm.trapService_sameBlocked hr).unblocked.trans (unblocked v here))
  exact { after with }

theorem account (h : s.BlockInv) (alive : Bool) : (s.account alive).BlockInv where
  script := by simpa using h.script
  activity := by simpa using h.activity
  vms := State.forall_vms_congr h.vms (s.vmAt_account alive)

theorem nextInRound (h : s.BlockInv) (inScheduler : Bool) : (s.nextInRound inScheduler).BlockInv := by
  unfold State.nextInRound
  split
  · exact { h with activity := nofun }
  · exact { h with activity := by cases inScheduler <;> nofun }

theorem tickReturn (h : s.BlockInv) (c : Caller) (alive : Bool) : (s.tickReturn c alive).BlockInv := by
  cases c with
  | host => exact { h with activity := nofun }
  | round inScheduler => exact (h.account alive).nextInRound inScheduler

theorem instr (h : s.BlockInv) {v : Vm} (here : s.vm? = some v) (running : v.run = .running) :
    (s.afterFetch.onVm fun v' => v'.effect s.cfg v.nextInstr).spendTick.BlockInv := by
  have fetched : s.afterFetch.BlockInv := h.onVmAt fun _ _ hw => hw.afterFetch
  have after := fetched.onVmAt (i := s.cur) (f := fun w => w.effect s.cfg v.nextInstr) fun w hw bw =>
    bw.effect (by rw [State.vmAt_afterFetch here hw, Vm.afterFetch_run, running]) _ _
  exact { after with activity := Activity.spend_ne_drive h.activity }

/-- Every host call that leaves the run/block machines to Tick keeps them. -/
theorem callAnswers (h : s.BlockInv) {c : HostCall} {t : State} (handsOff : c.handsOff = true)
    (answer : s.CallAnswers c t) : t.BlockInv := by
  cases answer with
  | construct =>
    exact { h.called with vms := State.forall_append h.vms (.of_unblocked rfl) false }
  | addVm images v _ loaded =>
    obtain ⟨m, rfl, -⟩ := Vm.loadAll_eq loaded
    exact { h.called with vms := State.forall_append h.vms (.of_unblocked rfl) true }
  | load i img v v' here loaded =>
    cases Vm.load_eq loaded
    refine h.called.onVmAt fun w hw bw => ?_
    cases here.symm.trans hw
    exact ⟨bw.input, bw.output⟩
  | setKey i k => exact h.called.onVmAt fun _ _ bw => ⟨bw.input, bw.output⟩
  | inspect | cycleOwner => exact { h.called with }
  | runFor | tick | runScheduler => exact { h.called with activity := nofun }
  | round =>
    have closed : { s.called with started := true }.BlockInv := { h.called with }
    exact closed.beginRound false
  | reset | trap | drive => cases handsOff

theorem answers (h : s.BlockInv) {t : State} (answer : s.Answers t) : t.BlockInv := by
  cases answer with
  | noCall => exact h
  | call c _ call answer =>
    obtain ⟨-, first⟩ := call
    exact h.callAnswers (h.script c (List.mem_of_mem_head? first)) answer
  | instr v _ here running => exact h.instr here running
  | driveTrap _ _ _ drive | driveEnd _ drive => exact absurd drive h.activity
  | runForReturn | scheduleEnd => exact { h with activity := nofun }
  | tickStopped | tickBlocked => exact h.tickReturn _ _
  | tickEnter => exact { h with activity := nofun }
  | tickTrap v n c u _ here _ unblocked served =>
    have after := h.service served fun w hw => by
      cases here.symm.trans hw
      exact unblocked
    exact { after with activity := nofun }
  | tickReturn v budget c =>
    have after : (s.onVm Vm.block).BlockInv := h.onVmAt fun _ _ hw => hw.block
    exact after.tickReturn c v.alive
  | scheduleRound => exact h.beginRound true

end State.BlockInv

/-- Settles O60: every answer of a step keeps `BlockInv`, and a VM on a trap is on a trap of one class. -/
theorem blockedBitsExcludeEachOther : Obligations.BlockedBitsExcludeEachOther :=
  ⟨fun _ _ h hs => h.answers (step_answers hs), fun _ h slot mem => (h.vms slot mem).not_both⟩

end Sys2Proof.Machine

/-! PROOFS. The invariant of the block (10_state.md R27, R30, R36; 20_memory.md R40; 60_exceptions.md R187). -/

namespace Sys2Proof.Machine

/-! ### What holds of every VM -/

theorem Vm.construct_good {cfg : Config} (h : cfg.initMem.wf = true) (draw : Nat) : (Vm.construct cfg draw).Good :=
  ⟨h, nofun, fun _ => rfl⟩

theorem Vm.reset_good {v : Vm} (h : v.mem.wf = true) : v.reset.Good :=
  ⟨h, fun _ => .inl rfl, nofun⟩

theorem Vm.load_good {v v' : Vm} {img : Image} (loaded : v.load img = some v') (h : v.Good) : v'.Good := by
  cases Vm.load_eq loaded
  exact ⟨Memory.writeWords_wf h.memory _ _, h.flags, h.bare⟩

theorem Vm.setKey_good {v : Vm} (h : v.Good) (k : Word) : (v.setKey k).Good := ⟨h.memory, h.flags, h.bare⟩

theorem Vm.deliverKey_good {v : Vm} (h : v.Good) (k : Word) : (v.deliverKey k).Good := ⟨h.memory, h.flags, h.bare⟩

theorem Vm.clearOutput_good {v : Vm} (h : v.Good) : v.clearOutput.Good := ⟨h.memory, h.flags, h.bare⟩

theorem Vm.block_good {v : Vm} (h : v.Good) : v.block.Good :=
  ⟨by simpa using h.memory, by simpa using h.flags, by simpa using h.bare⟩

/-! ### The running-count -/

/-- Counting a VM that still counts lowers their number by one (R187). -/
theorem Slot.length_filter_counted {slot : Slot} {slots : List Slot} {k : Nat} (here : slots[k]? = some slot)
    (counts : slot.stillCounts = true) :
    ((slots.modify k fun slot => { slot with counted := true }).filter Slot.stillCounts).length + 1
      = (slots.filter Slot.stillCounts).length := by
  induction slots generalizing k with
  | nil => cases here
  | cons first rest ih =>
    cases k with
    | zero =>
      cases here
      have counted : Slot.stillCounts { slot with counted := true } = false := by simp [Slot.stillCounts]
      simp [counts, counted]
    | succ k =>
      have tail := ih here
      simp only [List.modify_succ_cons, List.filter_cons]
      split <;> simpa using tail

/-! ### The block -/

namespace State.Inv

variable {s : State}

theorem called (h : s.Inv) : s.called.Inv := { h with }

theorem onVmAt (h : s.Inv) {i : Nat} {f : Vm → Vm} (hf : ∀ v, s.vmAt i = some v → v.Good → (f v).Good) :
    (s.onVmAt i f).Inv where
  initMem := h.initMem
  vms := State.forall_onVmAt h.vms hf
  runningCount := h.runningCount.trans (s.filter_onVmAt i f).symm
  noOwner ho := State.joined_congr (h.noOwner ho) (s.joined_onVmAt i f)
  ownerInRange o ho := (h.ownerInRange o ho).trans_eq (s.vms_length_onVmAt i f).symm
  curInRange hc := (h.curInRange hc).trans_eq (s.vms_length_onVmAt i f).symm
  roundsJoined hr := State.joined_congr (h.roundsJoined hr) (s.joined_onVmAt i f)

theorem onOwner (h : s.Inv) {f : Vm → Vm} (hf : ∀ v, v.Good → (f v).Good) : (s.onOwner f).Inv := by
  cases ho : s.owner with
  | none => rwa [State.onOwner_of_none ho]
  | some o =>
    rw [State.onOwner_of_some ho]
    exact h.onVmAt fun v _ => hf v

/-- The owner stays in range, modulo the number of VMs, of which there is one (R184). -/
theorem cycleOwner (h : s.Inv) : s.cycleOwner.Inv where
  initMem := h.initMem
  vms := h.vms
  runningCount := h.runningCount
  noOwner ho := h.noOwner (by simpa using ho)
  ownerInRange o ho := by
    obtain ⟨old, hold, rfl⟩ := Option.map_eq_some_iff.mp ho
    exact Nat.mod_lt _ (Nat.zero_lt_of_lt (h.ownerInRange old hold))
  curInRange := h.curInRange
  roundsJoined := h.roundsJoined

theorem keyStep (h : s.Inv) (k : Option Word) : (s.keyStep k).Inv := by
  unfold State.keyStep
  split
  · exact h
  · split
    · exact h.cycleOwner
    · exact h.onOwner fun _ hv => Vm.deliverKey_good hv _

/-- A round begins over VMs that AddVm added, and with the Tick of VM 0 if there is one (R183). -/
theorem beginRound (h : s.Inv) (joined : ∀ slot ∈ s.vms, slot.joined = true) (inScheduler : Bool) :
    (s.beginRound inScheduler).Inv := by
  have polled : s.afterPoll.Inv := { h with }
  have cleared := (polled.keyStep s.polledKey).onOwner fun _ hv => Vm.clearOutput_good hv
  have allJoined := State.joined_congr joined (State.marks_beginRound Slot.joined (fun _ _ => rfl) s inScheduler)
  rw [State.vms_beginRound] at allJoined
  unfold State.beginRound
  simp only []
  split
  · exact { cleared with curInRange := by cases inScheduler <;> nofun, roundsJoined := fun _ => allJoined }
  · next nonempty =>
    exact { cleared with
      curInRange := fun _ => List.length_pos_iff.mpr (by simpa using nonempty)
      roundsJoined := fun _ => allJoined }

/-- A bare VM brings no owner and is not counted (log 16). -/
theorem append (h : s.Inv) (idle : s.activity = .idle) {v : Vm} (hv : v.Good) : (s.append v false).Inv where
  initMem := h.initMem
  vms := State.forall_append h.vms hv false
  runningCount := by simpa [Slot.stillCounts] using h.runningCount
  noOwner ho slot hs := by
    rcases List.mem_append.mp hs with old | new
    · exact h.noOwner ho slot old
    · rw [List.mem_singleton.mp new]
  ownerInRange o ho := by
    simpa using Nat.lt_succ_of_lt (h.ownerInRange o ho)
  curInRange hc := by simp [idle, Activity.onCur] at hc
  roundsJoined hr := by simp [idle, Activity.inRounds] at hr

/-- AddVm adds one to the count and brings an owner (R182). -/
theorem join (h : s.Inv) (idle : s.activity = .idle) {v : Vm} (hv : v.Good) : (s.join v).Inv where
  initMem := h.initMem
  vms := State.forall_append h.vms hv true
  runningCount := by simp [Slot.stillCounts, h.runningCount]
  noOwner := nofun
  ownerInRange o ho := by
    have range : s.owner.getD 0 < s.vms.length + 1 := by
      cases owner : s.owner with
      | none => exact Nat.succ_pos _
      | some old => exact Nat.lt_succ_of_lt (h.ownerInRange old owner)
    cases ho
    simpa using range
  curInRange hc := by simp [idle, Activity.onCur] at hc
  roundsJoined hr := by simp [idle, Activity.inRounds] at hr

theorem service (h : s.Inv) {i : Nat} {n : Byte} {t : State} (served : trapAt i n s = .next t) : t.Inv := by
  obtain ⟨v, r, here, hr, rfl⟩ := trapAt_eq_next served
  have after := h.onVmAt (i := i) (f := fun _ => r.vm) fun w hw gw => by
    cases here.symm.trans hw
    exact Vm.trapService_good hr gw
  exact { after with }

theorem instr (h : s.Inv) {v : Vm} (here : s.vm? = some v) (running : v.run = .running) :
    (s.afterFetch.onVm fun v' => v'.effect s.cfg v.nextInstr).spendTick.Inv := by
  have fetched : s.afterFetch.Inv := h.onVmAt fun _ _ => Vm.afterFetch_good
  have after := fetched.onVmAt (i := s.cur) (f := fun w => w.effect s.cfg v.nextInstr) fun w hw gw =>
    Vm.effect_good gw (by rw [State.vmAt_afterFetch here hw, Vm.afterFetch_run, running]) _ _
  exact { after with
    curInRange := fun hc => after.curInRange ((Activity.onCur_spend _).symm.trans hc)
    roundsJoined := fun hr => after.roundsJoined ((Activity.inRounds_spend _).symm.trans hr) }

/-- Counting a stopped VM keeps the running-count right, in a round, where every VM was added by AddVm (R187). -/
theorem account (h : s.Inv) (joined : ∀ slot ∈ s.vms, slot.joined = true) (alive : Bool) : (s.account alive).Inv := by
  unfold State.account
  split
  · exact h
  · next slot here =>
    split
    · next stops =>
      have counts : slot.stillCounts = true := by
        simp_all [Slot.stillCounts, joined slot (List.mem_of_getElem? here)]
      have count := Slot.length_filter_counted here counts
      exact {
        initMem := h.initMem
        vms := State.forall_vms_congr h.vms (s.vmAt_markCounted s.cur)
        runningCount := by
          change s.running - 1 = _
          rw [h.runningCount, ← count]
          rfl
        noOwner := fun ho => State.joined_congr (h.noOwner ho) (s.joined_markCounted s.cur)
        ownerInRange := fun o ho => (h.ownerInRange o ho).trans_eq (List.length_modify ..).symm
        curInRange := fun hc => (h.curInRange hc).trans_eq (List.length_modify ..).symm
        roundsJoined := fun hr => State.joined_congr (h.roundsJoined hr) (s.joined_markCounted s.cur) }
    · exact h

theorem nextInRound (h : s.Inv) (joined : ∀ slot ∈ s.vms, slot.joined = true) (inScheduler : Bool) :
    (s.nextInRound inScheduler).Inv := by
  unfold State.nextInRound
  split
  · exact { h with curInRange := fun _ => ‹_›, roundsJoined := fun _ => joined }
  · exact { h with curInRange := by cases inScheduler <;> nofun, roundsJoined := fun _ => joined }

theorem enterTickRun (h : s.Inv) {phase : TickPhase} {c : Caller} (tick : s.activity = .tick phase c) :
    (s.enterTickRun c).Inv :=
  { h with
    curInRange := fun _ => h.curInRange (by rw [tick]; rfl)
    roundsJoined := fun hr => h.roundsJoined (by rw [tick]; cases c <;> exact hr) }

theorem tickReturn (h : s.Inv) {phase : TickPhase} {c : Caller} (tick : s.activity = .tick phase c) (alive : Bool) :
    (s.tickReturn c alive).Inv := by
  cases c with
  | host => exact { h with curInRange := nofun, roundsJoined := nofun }
  | round inScheduler =>
    have joined := h.roundsJoined (by rw [tick]; rfl)
    exact (h.account joined alive).nextInRound (State.joined_congr joined (s.joined_account alive)) inScheduler

/-- Every host call keeps the invariant. -/
theorem callAnswers (h : s.Inv) {c : HostCall} {t : State} (idle : s.activity = .idle) (answer : s.CallAnswers c t) :
    t.Inv := by
  cases answer with
  | construct =>
    have after := h.called.append idle (Vm.construct_good h.initMem s.draws)
    exact { after with }
  | addVm images v _ loads =>
    obtain ⟨m, rfl, wf⟩ := Vm.loadAll_eq loads
    have loaded : (Vm.reset { Vm.construct s.cfg s.draws with mem := m }).Good := Vm.reset_good (wf h.initMem)
    have after := h.called.join idle loaded
    exact { after with }
  | reset i => exact h.called.onVmAt fun _ _ gv => Vm.reset_good gv.memory
  | load i img v v' here loaded =>
    refine h.called.onVmAt fun w hw gw => ?_
    cases here.symm.trans hw
    exact Vm.load_good loaded gw
  | setKey i k => exact h.called.onVmAt fun _ _ gv => Vm.setKey_good gv k
  | runFor _ _ here | tick _ here | drive _ here =>
    exact { h.called with curInRange := fun _ => here, roundsJoined := nofun }
  | trap i n u v served =>
    have after := h.called.service served
    exact { after with }
  | inspect => exact { h.called with }
  | cycleOwner => exact h.called.cycleOwner
  | round joined =>
    have closed : { s.called with started := true }.Inv := { h.called with }
    exact closed.beginRound joined false
  | runScheduler joined => exact { h.called with curInRange := nofun, roundsJoined := fun _ => joined }

theorem answers (h : s.Inv) {t : State} (answer : s.Answers t) : t.Inv := by
  cases answer with
  | noCall => exact h
  | call _ _ call answer => exact h.callAnswers call.1 answer
  | instr v _ here running => exact h.instr here running
  | driveTrap _ _ _ _ _ _ served => exact h.service served
  | driveEnd | runForReturn | scheduleEnd => exact { h with curInRange := nofun, roundsJoined := nofun }
  | tickStopped _ _ tick | tickBlocked _ _ _ tick => exact h.tickReturn tick _
  | tickEnter _ c tick => exact h.enterTickRun tick
  | tickTrap _ _ c u tick _ _ _ served => exact (h.service served).enterTickRun ((activity_trapAt served).trans tick)
  | tickReturn v budget c tick =>
    have after : (s.onVm Vm.block).Inv := h.onVmAt fun _ _ => Vm.block_good
    exact after.tickReturn (phase := .run budget) tick v.alive
  | scheduleRound schedule => exact h.beginRound (h.roundsJoined (by rw [schedule]; rfl)) true

end State.Inv

/-- Settles O59: every answer of a step keeps the invariant. -/
theorem everyStepKeepsTheInvariant : Obligations.EveryStepKeepsTheInvariant :=
  fun _ _ h hs => h.answers (step_answers hs)

end Sys2Proof.Machine

/-! PROOFS. Memory: its canonical form is unique, and what MemRead, MemWrite and Load do to it (20_memory.md R40, R44 to
R47, R53). -/

namespace Sys2Proof

/-! ### The canonical form (R40) -/

/-- The canonical form of a list, entry by entry. -/
theorem cellsWf_cons_iff {low k : Nat} {w : Word} {rest : List WordCell} :
    cellsWf low ((k, w) :: rest) = true ↔
      low ≤ k ∧ k < 65536 ∧ w ≠ Memory.unlistedWord ∧ cellsWf (k + 1) rest = true := by
  simp [cellsWf, and_assoc]

/-- A canonical list is canonical from its first address on. -/
theorem cellsWf_head {low k : Nat} {w : Word} {rest : List WordCell} (hw : cellsWf low ((k, w) :: rest) = true) :
    cellsWf k ((k, w) :: rest) = true := by
  obtain ⟨-, tail⟩ := cellsWf_cons_iff.mp hw
  exact cellsWf_cons_iff.mpr ⟨le_rfl, tail⟩

/-- A canonical list reads as a listed word at its first address, so another that reads alike begins no later. -/
theorem low_le_of_cellsRead_eq {low low' k : Nat} {w : Word} {rest cells : List WordCell}
    (hw : cellsWf low ((k, w) :: rest) = true) (hw' : cellsWf low' cells = true)
    (same : ∀ a < 65536, cellsRead ((k, w) :: rest) a = cellsRead cells a) : low' ≤ k := by
  obtain ⟨-, hk, listed, -⟩ := cellsWf_cons_iff.mp hw
  by_contra before
  have first : w = cellsRead cells k := by simpa [cellsRead] using same k hk
  exact listed (first.trans (cellsRead_below hw' (by omega)))

/-- A canonical list with an entry does not read like the empty list, which is canonical from 65536 on. -/
theorem not_cellsRead_cons_eq_nil {low k : Nat} {w : Word} {rest : List WordCell}
    (hw : cellsWf low ((k, w) :: rest) = true) : ¬ ∀ a < 65536, cellsRead ((k, w) :: rest) a = cellsRead [] a := by
  intro same
  obtain ⟨-, hk, -⟩ := cellsWf_cons_iff.mp hw
  have past : 65536 ≤ k := low_le_of_cellsRead_eq hw rfl same
  omega

/-- Two canonical lists that read alike have the same first entry. -/
theorem head_eq_of_cellsRead_eq {low low' k k' : Nat} {w w' : Word} {rest rest' : List WordCell}
    (hw : cellsWf low ((k, w) :: rest) = true) (hw' : cellsWf low' ((k', w') :: rest') = true)
    (same : ∀ a < 65536, cellsRead ((k, w) :: rest) a = cellsRead ((k', w') :: rest') a) : k = k' ∧ w = w' := by
  have after : k' ≤ k := low_le_of_cellsRead_eq hw (cellsWf_head hw') same
  have before : k ≤ k' := low_le_of_cellsRead_eq hw' (cellsWf_head hw) fun a ha => (same a ha).symm
  obtain rfl : k = k' := by omega
  obtain ⟨-, hk, -⟩ := cellsWf_cons_iff.mp hw
  exact ⟨rfl, by simpa [cellsRead] using same k hk⟩

/-- Behind the same first entry, two canonical lists that read alike go on alike. -/
theorem cellsRead_tail_eq {low low' k : Nat} {w : Word} {rest rest' : List WordCell}
    (hw : cellsWf low ((k, w) :: rest) = true) (hw' : cellsWf low' ((k, w) :: rest') = true)
    {a : Nat} (same : cellsRead ((k, w) :: rest) a = cellsRead ((k, w) :: rest') a) :
    cellsRead rest a = cellsRead rest' a := by
  obtain ⟨-, -, -, tail⟩ := cellsWf_cons_iff.mp hw
  obtain ⟨-, -, -, tail'⟩ := cellsWf_cons_iff.mp hw'
  by_cases here : k = a
  · rw [cellsRead_below tail (by omega), cellsRead_below tail' (by omega)]
  · simpa [cellsRead, here] using same

/-- Two canonical lists that read alike are the same list. -/
theorem cells_eq_of_cellsRead_eq {low low' : Nat} {cells cells' : List WordCell} (hw : cellsWf low cells = true)
    (hw' : cellsWf low' cells' = true) (same : ∀ a < 65536, cellsRead cells a = cellsRead cells' a) : cells = cells' := by
  induction cells generalizing low low' cells' with
  | nil =>
    cases cells' with
    | nil => rfl
    | cons c' rest' => exact absurd (fun a ha => (same a ha).symm) (not_cellsRead_cons_eq_nil hw')
  | cons c rest ih =>
    cases cells' with
    | nil => exact absurd same (not_cellsRead_cons_eq_nil hw)
    | cons c' rest' =>
      obtain ⟨k, w⟩ := c
      obtain ⟨k', w'⟩ := c'
      obtain ⟨rfl, rfl⟩ := head_eq_of_cellsRead_eq hw hw' same
      obtain ⟨-, -, -, tail⟩ := cellsWf_cons_iff.mp hw
      obtain ⟨-, -, -, tail'⟩ := cellsWf_cons_iff.mp hw'
      exact congrArg _ (ih tail tail' fun a ha => cellsRead_tail_eq hw hw' (same a ha))

/-- Settles O29, by induction on the two lists of cells. -/
theorem canonicalMemoryIsUnique : Obligations.CanonicalMemoryIsUnique := by
  intro m m' hw hw' same
  have cells : m.cells = m'.cells := cells_eq_of_cellsRead_eq hw hw' fun a ha => by
    simpa [Memory.read, Nat.mod_eq_of_lt ha] using same (BitVec.ofNat 16 a)
  cases m
  cases m'
  exact congrArg Memory.mk cells

/-! ### Loaded words (R53) -/

/-- The word an image puts at its `k`-th address (R53). -/
theorem Memory.read_writeWords_at {m : Memory} (h : m.wf = true) {a : Word} {ws : List Word}
    (fits : a.toNat + ws.length ≤ 65536) {k : Nat} (hk : k < ws.length) :
    (m.writeWords a ws).read (a + BitVec.ofNat 16 k) = ws[k] := by
  have address : (a + BitVec.ofNat 16 k).toNat = a.toNat + k := by
    rw [BitVec.toNat_add, BitVec.toNat_ofNat]
    omega
  rw [Memory.read_writeWords h a ws fits, address, if_pos (by omega), Nat.add_sub_cancel_left, List.getElem?_eq_getElem hk,
    Option.getD_some]

/-- Loading words leaves every address outside their range (R53). -/
theorem Memory.read_writeWords_outside {m : Memory} (h : m.wf = true) {a b : Word} {ws : List Word}
    (fits : a.toNat + ws.length ≤ 65536) (outside : b.toNat < a.toNat ∨ a.toNat + ws.length ≤ b.toNat) :
    (m.writeWords a ws).read b = m.read b := by
  rw [Memory.read_writeWords h a ws fits]
  split
  · rw [List.getElem?_eq_none (by omega), Option.getD_none]
  · rfl

end Sys2Proof

namespace Sys2Proof.Machine

/-! ### Loading (R53) -/

/-- A Load that fits is performed (R53). -/
theorem hostLoad_of_fits {s : State} {i : Nat} {v : Vm} {img : Image} (hv : s.vmAt i = some v) (fits : img.fits = true) :
    hostLoad i img s = .next (s.onVmAt i fun _ => { v with mem := v.mem.writeWords img.origin img.words }) := by
  simp [hostLoad, hv, Vm.load, fits]

/-- A Load that does not fit is refused (R53). -/
theorem hostLoad_of_not_fits {s : State} {i : Nat} {v : Vm} {img : Image} (hv : s.vmAt i = some v)
    (past : ¬ img.fits = true) : hostLoad i img s = .refused .loadOutOfRange := by
  simp [hostLoad, hv, Vm.load, past]

/-- Settles O30: a Load that fits changes memory alone, by the image's words. -/
theorem loadWritesTheImage : Obligations.LoadWritesTheImage := by
  refine ⟨fun s i v img hv wf fits => ?_, fun s i v img hv past => ?_⟩
  · refine ⟨_, { v with mem := v.mem.writeWords img.origin img.words }, hostLoad_of_fits hv (img.fits_iff.mpr fits),
      s.sameBut_onVmAt i _, by simp [State.vmAt_onVmAt, hv], ?words, ?others, fun _ => rfl, rfl, rfl, rfl, rfl, rfl, rfl, rfl⟩
    case words => exact fun k hk => Memory.read_writeWords_at wf fits hk
    case others => exact fun a outside => Memory.read_writeWords_outside wf fits outside
  · exact hostLoad_of_not_fits hv fun fits => Nat.not_le.mpr past (img.fits_iff.mp fits)

/-! ### Who writes a word of memory (R44, R46, R53) -/

/-- An instruction changes no word away from the keyboard registers but the one at its store address (R114 to R116). -/
theorem Vm.effect_read_of_not_stored (v : Vm) (cfg : Config) {i : Instr} {a : Word} (hs : a ≠ kbsr) (hd : a ≠ kbdr)
    (hi : storesTo v i ≠ some a) : (v.effect cfg i).mem.read a = v.mem.read a := by
  have unstored {ea : Word} (h : storesTo v i = some ea) : a ≠ ea := fun e => hi (e ▸ h)
  cases i with
  | br cond off =>
    obtain ⟨target, e⟩ := v.effect_br cfg cond off
    rw [e]
  | st | str => exact Memory.read_write_other _ _ (unstored rfl)
  | sti sr off =>
    exact (Memory.read_write_other _ _ (unstored rfl)).trans (v.afterRead_read_other _ hs hd)
  | ld | ldr => simpa [Vm.effect] using v.afterRead_read_other _ hs hd
  | ldi dr off =>
    have load : (v.effect cfg (.ldi dr off)).mem = ((v.afterIndirect off).afterRead (v.indirect off)).mem :=
      Vm.loadInto_mem ..
    rw [load, Vm.afterRead_read_other _ _ hs hd]
    exact v.afterRead_read_other _ hs hd
  | _ => simp [Vm.effect]

/-- No service writes memory (R150). -/
theorem Vm.trapService_mem {v : Vm} {cfg : Config} {draw : Nat} {n : Byte} {r : Served}
    (h : v.trapService cfg draw n = some r) : r.vm.mem = v.mem := by
  rcases Vm.trapService_cases h with ⟨-, rfl⟩ | ⟨-, -, served⟩
  · rfl
  · exact served.mem

/-- Settles O44: of the moves of a VM only an instruction's store and Load write a word away from the keyboard registers. -/
theorem onlyStoresAndLoadWriteMemory : Obligations.OnlyStoresAndLoadWriteMemory := by
  intro s t j v v' a h hv hv' hs hd changed
  cases move_of_step h hv hv' with
  | same => exact absurd rfl changed
  | instr turn here =>
    refine .inl ⟨turn, here, ?_⟩
    by_contra hi
    have fetched : v.afterFetch.mem.read a = v.mem.read a := v.afterRead_read_other v.pc hs hd
    exact changed ((v.afterFetch.effect_read_of_not_stored _ hs hd hi).trans fetched)
  | service n r served => exact absurd (congrArg (Memory.read · a) (Vm.trapService_mem served)) changed
  | block => exact absurd (congrArg (Memory.read · a) v.block_mem) changed
  | load img _ idle call => exact .inr ⟨img, idle, call⟩
  | reset | setKey | key | clear => exact absurd rfl changed

/-! ### The keyboard-status read (R44, R45) -/

/-- A read at the keyboard-status address is the latch. -/
theorem Vm.afterRead_kbsr (v : Vm) : v.afterRead kbsr = v.latchKey := if_pos rfl

/-- The latch leaves the status of the key that was pending (R44). -/
theorem Vm.latchKey_read_kbsr {v : Vm} (h : v.mem.wf = true) :
    v.latchKey.mem.read kbsr = if v.pending.isSome then 0x8000#16 else 0x0000#16 := by
  unfold Vm.latchKey
  split
  · next k key =>
    rw [Memory.read_write_other _ _ (by decide), Memory.read_write_same h, key]
    rfl
  · next key =>
    rw [Memory.read_write_same h, key]
    rfl

/-- The latch leaves the pending key, if there is one, in the data register (R44). -/
theorem Vm.latchKey_read_kbdr {v : Vm} (h : v.mem.wf = true) :
    v.latchKey.mem.read kbdr = v.pending.getD (v.mem.read kbdr) := by
  unfold Vm.latchKey
  split
  · next k key => rw [Memory.read_write_same (Memory.write_wf h ..), key, Option.getD_some]
  · next key => rw [Memory.read_write_other _ _ (by decide), key, Option.getD_none]

/-- MemRead's word at the keyboard-status address (R44). -/
theorem Vm.memRead_kbsr {v : Vm} (h : v.mem.wf = true) :
    v.memRead kbsr = if v.pending.isSome then 0x8000#16 else 0x0000#16 := by
  rw [Vm.memRead, Vm.afterRead_kbsr, Vm.latchKey_read_kbsr h]

/-- Settles O27: the read is the latch, after which no key is pending. -/
theorem keyboardStatusRead : Obligations.KeyboardStatusRead := by
  intro v wf
  have status : (0xFE00#16 : Word) = kbsr := rfl
  have data : (0xFE02#16 : Word) = kbdr := rfl
  rw [status, data, v.afterRead_kbsr, Vm.memRead_kbsr wf, Vm.memRead_kbsr (Vm.latchKey_memory wf), Vm.latchKey_read_kbsr wf,
    Vm.latchKey_read_kbdr wf, v.latchKey_pending]
  exact ⟨fun k key => by simp [key], fun key => by simp [key], rfl, rfl, fun a hs hd => v.latchKey_read_other hs hd,
    Vm.reg_eq_of_regs v.latchKey_regs, v.latchKey_pc, v.latchKey_flags, v.latchKey_run,
    ⟨v.latchKey_blockedInput, v.latchKey_blockedOutput, v.latchKey_initialised⟩,
    fun a ha => ⟨v.memRead_of_ne ha, v.afterRead_of_ne ha⟩⟩

/-! ### A store (R46 to R48) -/

/-- Settles O28: a store writes one word of memory and nothing else, and a fetch elsewhere than 0xFE00 reads memory. -/
theorem storeThenReadAndFetch : Obligations.StoreThenReadAndFetch := by
  intro v a w wf
  have stored : (v.mem.write a w).read a = w := Memory.read_write_same wf a w
  refine ⟨stored, stored, fun b hb => Memory.read_write_other _ _ hb, fun _ => rfl, rfl, rfl, ⟨rfl, rfl, rfl, rfl, rfl⟩,
    fun ha => ?_⟩
  exact (Vm.memRead_of_ne _ ha).trans stored

end Sys2Proof.Machine

/-! PROOFS. The decoder and the encoder (30_encoding.md R60 to R69): the formats of R64 field by field, the one instruction
that a word has the format of, and which bits a format's fields are. -/

namespace Sys2Proof

/-! ### The formats of R64, field by field -/

/-- A field of an instruction's format: its lowest bit, its length, and the bits it holds (R63). -/
structure FormatField where
  lo : Nat
  len : Nat
  bits : BitVec len

/-- A word holds the field's bits in the field's place. -/
@[simp] def FormatField.In (f : FormatField) (w : Word) : Prop := field w f.lo f.len = f.bits

/-- A bit's place in a word is inside one of the fields. -/
@[simp] def InFields (fs : List FormatField) (k : Nat) : Prop := ∃ f ∈ fs, f.lo ≤ k ∧ k < f.lo + f.len

/-- The fields that say which row a word is of: the opcode, and the bits that choose among the rows of one opcode
(R62, R69). -/
@[simp] def fixedFields : Instr → List FormatField
  | .br _ _ => [⟨12, 4, 0x0#4⟩]
  | .addReg _ _ _ => [⟨12, 4, 0x1#4⟩, ⟨5, 1, 0#1⟩]
  | .addImm _ _ _ => [⟨12, 4, 0x1#4⟩, ⟨5, 1, 1#1⟩]
  | .ld _ _ => [⟨12, 4, 0x2#4⟩]
  | .st _ _ => [⟨12, 4, 0x3#4⟩]
  | .jsr _ => [⟨12, 4, 0x4#4⟩, ⟨11, 1, 1#1⟩]
  | .jsrr _ => [⟨12, 4, 0x4#4⟩, ⟨11, 1, 0#1⟩]
  | .andReg _ _ _ => [⟨12, 4, 0x5#4⟩, ⟨5, 1, 0#1⟩]
  | .andImm _ _ _ => [⟨12, 4, 0x5#4⟩, ⟨5, 1, 1#1⟩]
  | .ldr _ _ _ => [⟨12, 4, 0x6#4⟩]
  | .str _ _ _ => [⟨12, 4, 0x7#4⟩]
  | .rti => [⟨12, 4, 0x8#4⟩]
  | .not _ _ => [⟨12, 4, 0x9#4⟩]
  | .ldi _ _ => [⟨12, 4, 0xA#4⟩]
  | .sti _ _ => [⟨12, 4, 0xB#4⟩]
  | .jmp _ => [⟨12, 4, 0xC#4⟩]
  | .res => [⟨12, 4, 0xD#4⟩]
  | .lea _ _ => [⟨12, 4, 0xE#4⟩]
  | .trap _ => [⟨12, 4, 0xF#4⟩]
  | .getc => [⟨12, 4, 0xF#4⟩, ⟨0, 8, 0x20#8⟩]
  | .out => [⟨12, 4, 0xF#4⟩, ⟨0, 8, 0x21#8⟩]
  | .puts => [⟨12, 4, 0xF#4⟩, ⟨0, 8, 0x22#8⟩]
  | .in_ => [⟨12, 4, 0xF#4⟩, ⟨0, 8, 0x23#8⟩]
  | .putsp => [⟨12, 4, 0xF#4⟩, ⟨0, 8, 0x24#8⟩]
  | .halt => [⟨12, 4, 0xF#4⟩, ⟨0, 8, 0x25#8⟩]

/-- The fields of the operands (R63, R64). -/
@[simp] def operandFields : Instr → List FormatField
  | .br cond off => [⟨9, 3, cond⟩, ⟨0, 9, off⟩]
  | .addReg dr sr1 sr2 | .andReg dr sr1 sr2 => [⟨9, 3, regBits dr⟩, ⟨6, 3, regBits sr1⟩, ⟨0, 3, regBits sr2⟩]
  | .addImm dr sr1 imm | .andImm dr sr1 imm => [⟨9, 3, regBits dr⟩, ⟨6, 3, regBits sr1⟩, ⟨0, 5, imm⟩]
  | .ld r off | .st r off | .ldi r off | .sti r off | .lea r off => [⟨9, 3, regBits r⟩, ⟨0, 9, off⟩]
  | .jsr off => [⟨0, 11, off⟩]
  | .jsrr base | .jmp base => [⟨6, 3, regBits base⟩]
  | .ldr r base off | .str r base off => [⟨9, 3, regBits r⟩, ⟨6, 3, regBits base⟩, ⟨0, 6, off⟩]
  | .not dr sr => [⟨9, 3, regBits dr⟩, ⟨6, 3, regBits sr⟩]
  | .trap v => [⟨0, 8, v⟩]
  | .rti | .res | .getc | .out | .puts | .in_ | .putsp | .halt => []

/-- The fields of an instruction's format. Every other bit is ignored. -/
@[simp] def formatFields (i : Instr) : List FormatField := fixedFields i ++ operandFields i

/-- A word has the format of an instruction. -/
@[simp] def Instr.FormatOf (i : Instr) (w : Word) : Prop := ∀ f ∈ formatFields i, f.In w

/-! ### A word decodes to the one instruction whose format it has -/

/-- One bit of a word as a field. -/
theorem getLsbD_eq_field (w : Word) (k : Nat) : w.getLsbD k = decide (field w k 1 = 1#1) := by
  simp [getLsbD_eq_toNat, ← BitVec.toNat_inj, toNat_field]

/-- The other value of a field of one bit. -/
theorem field_eq_zero_iff (w : Word) (k : Nat) : field w k 1 = 0#1 ↔ ¬ field w k 1 = 1#1 := by
  generalize field w k 1 = b
  revert b
  decide

@[simp] theorem regBits_regField (w : Word) (lo : Nat) : regBits (regField w lo) = field w lo 3 := rfl

/-- A register number and its three bits (R63). -/
theorem regField_eq_iff {w : Word} {lo : Nat} {r : RegIdx} : regField w lo = r ↔ field w lo 3 = regBits r :=
  ⟨fun h => h ▸ rfl, congrArg BitVec.toFin⟩

/-- An instruction's own word has its format. -/
theorem formatOf_encode (i : Instr) : i.FormatOf (encode i) := by
  cases i
  all_goals simp [← BitVec.toNat_inj, toNat_field, toNat_encode, toNat_regBits, wordValue]
  all_goals omega

/-- Opcode 0xF: a TRAP word has the format of what its vector selects (R69, R140). -/
theorem formatOf_decodeTrap {w : Word} (op : field w 12 4 = 0xF#4) : (decodeTrap w).FormatOf w := by
  unfold decodeTrap
  split
  all_goals simp_all [← BitVec.toNat_inj (x := field w 0 8)]

/-- Every word has the format of the instruction it decodes to (R69). -/
theorem formatOf_decode (w : Word) : (decode w).FormatOf w := by
  unfold decode
  simp only [getLsbD_eq_field, decide_eq_true_eq, fieldDR, fieldSR1, fieldSR2]
  split
  case h_16 =>
    refine formatOf_decodeTrap (BitVec.eq_of_toNat_eq ?_)
    have opcode := (field w 12 4).isLt
    simp only [imp_false, BitVec.toNat_ofNat] at *
    omega
  case h_2 | h_5 | h_6 =>
    split
    all_goals simp_all [← BitVec.toNat_inj (x := field w 12 4), field_eq_zero_iff]
  all_goals simp_all [← BitVec.toNat_inj (x := field w 12 4)]

theorem decodeTrap_wellFormed (w : Word) : (decodeTrap w).wellFormed = true := by
  unfold decodeTrap
  split
  case h_7 => simp_all [Instr.wellFormed, serviceVectors, ← BitVec.toNat_inj]
  all_goals rfl

/-- Every word decodes to a well-formed instruction (R68, R69). -/
theorem decode_wellFormed (w : Word) : (decode w).wellFormed = true := by
  unfold decode
  split
  case h_16 => exact decodeTrap_wellFormed w
  case h_2 | h_5 | h_6 => split <;> rfl
  all_goals rfl

/-- A vector with no service row of its own decodes to the plain TRAP row (R69). -/
theorem decodeTrap_of_plain {w : Word} (plain : (Instr.trap (field w 0 8)).wellFormed = true) :
    decodeTrap w = .trap (field w 0 8) := by
  unfold decodeTrap
  split
  case h_7 => rfl
  all_goals simp_all [Instr.wellFormed, serviceVectors, ← BitVec.toNat_inj]

/-- A word decodes to every well-formed instruction whose format it has. -/
theorem decode_of_formatOf {i : Instr} {w : Word} (wf : i.wellFormed = true) (h : i.FormatOf w) : decode w = i := by
  cases i
  case trap v =>
    obtain ⟨op, rfl⟩ : field w 12 4 = 0xF#4 ∧ field w 0 8 = v := by simpa using h
    simpa [decode, op] using decodeTrap_of_plain wf
  all_goals
    simp only [decode, getLsbD_eq_field, fieldDR, fieldSR1, fieldSR2]
    simp_all [decodeTrap, regField_eq_iff]

/-! ### The bits of a format's fields -/

/-- The fields of the format are the bits that the row does not ignore (R67). -/
theorem inFields_formatFields_iff (i : Instr) :
    ∀ k < 16, InFields (formatFields i) k ↔ (~~~ ignoredBits i).getLsbD k = true := by
  cases i
  all_goals
    simp only [InFields, formatFields, fixedFields, operandFields, List.cons_append, List.nil_append, List.exists_mem_cons_iff,
      List.not_mem_nil, false_and, exists_false, ignoredBits]
    decide

/-- The fixed fields are the bits of the row's mask. -/
theorem inFields_fixedFields_iff (i : Instr) : ∀ k < 16, InFields (fixedFields i) k ↔ (rowMask i).getLsbD k = true := by
  cases i
  all_goals
    simp only [InFields, fixedFields, List.exists_mem_cons_iff, List.not_mem_nil, false_and, exists_false, rowMask]
    decide

/-- The row's match holds the fixed fields. -/
theorem fixedFields_in_rowMatch (i : Instr) : ∀ f ∈ fixedFields i, f.In (rowMatch i) := by
  cases i
  all_goals
    simp only [fixedFields, rowMatch, FormatField.In, List.forall_mem_cons, List.not_mem_nil, false_imp_iff, implies_true,
      and_true]
    decide

/-- The row's match has no bit outside the row's mask. -/
theorem rowMatch_and_rowMask (i : Instr) : rowMatch i &&& rowMask i = rowMatch i := by
  cases i
  all_goals
    simp only [rowMatch, rowMask]
    decide

/-- One bit of a field (R10). -/
theorem getLsbD_field (w : Word) {lo len k : Nat} (h : lo ≤ k ∧ k < lo + len) :
    (field w lo len).getLsbD (k - lo) = w.getLsbD k := by
  simp [field, h, show k - lo < len by omega]

/-- Words that hold the same fields agree on a mask within the fields. -/
theorem and_eq_of_fields {x y m : Word} {fs : List FormatField} (within : ∀ k < 16, m.getLsbD k = true → InFields fs k)
    (hx : ∀ f ∈ fs, f.In x) (hy : ∀ f ∈ fs, f.In y) : x &&& m = y &&& m := by
  refine BitVec.eq_of_getLsbD_eq fun k hk => ?_
  cases hm : m.getLsbD k with
  | false => simp [hm]
  | true =>
    obtain ⟨f, hf, place⟩ := within k hk hm
    simp [hm, ← getLsbD_field x place, ← getLsbD_field y place, (hx f hf).trans (hy f hf).symm]

/-- Words that agree on a mask agree on a field within it. -/
theorem field_eq_of_and_eq {x y m : Word} {lo len : Nat} (h : x &&& m = y &&& m)
    (within : ∀ k < 16, lo ≤ k ∧ k < lo + len → m.getLsbD k = true) : field x lo len = field y lo len := by
  refine BitVec.eq_of_getLsbD_eq fun k hk => ?_
  have bit (z : Word) : (field z lo len).getLsbD k = (z &&& m).getLsbD (lo + k) := by
    by_cases inside : lo + k < 16
    · simp [field, hk, within _ inside (by omega)]
    · simp [field, BitVec.getLsbD_of_ge, Nat.le_of_not_lt inside]
  rw [bit, bit, h]

/-- Two words with the format of an instruction agree on the bits that its row does not ignore. -/
theorem Instr.FormatOf.agree {i : Instr} {x y : Word} (hx : i.FormatOf x) (hy : i.FormatOf y) :
    x &&& ~~~ ignoredBits i = y &&& ~~~ ignoredBits i :=
  and_eq_of_fields (fun k hk => (inFields_formatFields_iff i k hk).mpr) hx hy

/-- A format is kept by a change of ignored bits. -/
theorem Instr.FormatOf.of_agree {i : Instr} {x y : Word} (hx : i.FormatOf x)
    (h : x &&& ~~~ ignoredBits i = y &&& ~~~ ignoredBits i) : i.FormatOf y := fun f hf =>
  (field_eq_of_and_eq h fun k hk place => (inFields_formatFields_iff i k hk).mp ⟨f, hf, place⟩).symm.trans (hx f hf)

/-- A word with the format of an instruction has the fixed bits of its row (R64). -/
theorem Instr.FormatOf.row {i : Instr} {w : Word} (h : i.FormatOf w) : w &&& rowMask i = rowMatch i :=
  (and_eq_of_fields (fun k hk => (inFields_fixedFields_iff i k hk).mpr) (fun f hf => h f (List.mem_append_left _ hf))
    (fixedFields_in_rowMatch i)).trans (rowMatch_and_rowMask i)

/-! ### The statements -/

/-- Settles O33: the encoding of an instruction has its format. -/
theorem decodeOfEncode : Obligations.DecodeOfEncode := fun i wf => decode_of_formatOf wf (formatOf_encode i)

/-- Settles O34: a word and its instruction's own encoding have the same format. -/
theorem decodeIsExactOnEveryWord : Obligations.DecodeIsExactOnEveryWord := fun w =>
  ⟨decode_wellFormed w, (formatOf_decode w).row, (formatOf_decode w).agree (formatOf_encode (decode w))⟩

/-- Settles O35: the second word has the format of what the first decodes to. -/
theorem ignoredBitsDoNotMatter : Obligations.IgnoredBitsDoNotMatter := fun w _ h =>
  decode_of_formatOf (decode_wellFormed w) ((formatOf_decode w).of_agree h)

/-- Settles O32: each word is a closed term. -/
theorem sampleWordsDecode : Obligations.SampleWordsDecode := by
  unfold Obligations.SampleWordsDecode
  decide

end Sys2Proof

/-! PROOFS. The engine's loop: one instruction a step and one tick of the budget, and RunFor's return (30_encoding.md R73 to
R77). -/

namespace Sys2Proof.Machine

/-! ### One instruction (R73, R77) -/

/-- While VM `cur` is Running and the engine's loop has budget left, the turn is the engine's. -/
theorem State.engineTurn_of_running {s : State} {v : Vm} (here : s.vm? = some v) (running : v.run = .running)
    (budget : s.activity.inEngine = true) : s.engineTurn = true :=
  (State.engineTurn_iff s).mpr ⟨budget, v, here, running⟩

/-- An instruction leaves the operation in progress, and a tick of its budget is spent after it. -/
theorem andThen_exec_spendTick (i : Instr) (s : State) :
    andThen (exec i s) State.spendTick = andThen (exec i s) fun t => { t with activity := s.activity.spend } := by
  simp only [exec_eq, andThen_next]
  rfl

/-- With no budget to spend, the step is the instruction alone. -/
theorem andThen_exec_spendTick_of_infinite {i : Instr} {s : State} (infinite : s.activity.spend = s.activity) :
    andThen (exec i s) State.spendTick = exec i s := by
  rw [andThen_exec_spendTick, infinite, exec_eq]
  rfl

/-! ### RunFor (R73 to R76) -/

/-- A call that begins an operation on a VM that exists. -/
theorem beginOn_eq {i : Nat} {a : Activity} {s : State} {v : Vm} (here : s.vmAt i = some v) :
    beginOn i a s = .next { s with cur := i, activity := a } := by
  simp [beginOn, here]

theorem budgetOf_neg {ticks : Int} (h : ticks < 0) : budgetOf (some ticks) = none := if_pos h

theorem budgetOf_natCast (k : Nat) : budgetOf (some (k : Int)) = some k := by simp [budgetOf]

@[simp] theorem State.vm?_spendTick (s : State) : s.spendTick.vm? = s.vm? := rfl

/-- The engine has no turn on a VM that is not Running, or with budget 0 (R76). -/
theorem State.engineTurn_of_not_running {s : State} {v : Vm} (here : s.vm? = some v) (notRunning : v.run ≠ .running) :
    s.engineTurn = false := by
  simp [State.engineTurn, here, notRunning]

theorem State.engineTurn_of_budget_zero {s : State} (runFor : s.activity = .runFor (some 0)) : s.engineTurn = false := by
  simp [State.engineTurn, runFor, Activity.inEngine]

/-- RunFor with no turn of the engine left returns the execution state. -/
theorem step_runFor_return {s : State} {v : Vm} {b : Option Nat} (runFor : s.activity = .runFor b) (here : s.vm? = some v)
    (ended : s.engineTurn = false) : step s = .next { s with activity := .idle, replies := s.replies ++ [.state v.run] } := by
  simp [step, runFor, runForStep, here, ended]
  rfl

/-- An instruction of RunFor spends one unit of its budget, and its VM stays. -/
theorem step_runFor_turn {s : State} {k : Nat} (runFor : s.activity = .runFor (some (k + 1))) (turn : s.engineTurn = true) :
    ∃ t, step s = .next t ∧ t.activity = .runFor (some k) ∧ t.vm?.isSome = true := by
  obtain ⟨-, v, here, -⟩ := (State.engineTurn_iff s).mp turn
  exact ⟨_, (step_of_engineTurn turn here).trans (runInstr_eq v s), by simp [runFor, Activity.spend],
    by simp [State.afterFetch, here]⟩

/-! ### The statements -/

/-- Settles O36: the engine's turn in each of the four operations, and the host's turn when none is in progress. -/
theorem stepRunsDecodedInstruction : Obligations.StepRunsDecodedInstruction := by
  refine ⟨?_, fun s idle => ⟨fun c rest script => ?_, fun script => ?_⟩⟩
  · rintro s _ v here running rfl
    have turn (budget : s.activity.inEngine = true) :
        step s = andThen (exec (decode (v.memRead v.pc)) s.afterFetch) State.spendTick :=
      step_of_engineTurn (State.engineTurn_of_running here running budget) here
    refine ⟨fun drive => ?_, fun runFor => ?_, fun b runFor => ?_, fun b c tick => ?_⟩
    · exact (turn (by rw [drive]; rfl)).trans (andThen_exec_spendTick_of_infinite (by simp [drive, Activity.spend]))
    · exact (turn (by rw [runFor]; rfl)).trans (andThen_exec_spendTick_of_infinite (by simp [runFor, Activity.spend]))
    · rw [turn (by simp [runFor, Activity.inEngine]), andThen_exec_spendTick, s.afterFetch_activity, runFor]
      rfl
    · rw [turn (by simp [tick, Activity.inEngine]), andThen_exec_spendTick, s.afterFetch_activity, tick]
      rfl
  · simp [step, idle, hostStep, script]
  · simp [step, idle, hostStep, script]

/-- Settles O37: the budget by the sign of the count; then either reason for which the engine has no turn. -/
theorem runForReturnsTheState : Obligations.RunForReturnsTheState := by
  refine ⟨fun s i v here => ⟨beginOn_eq here, fun ticks negative => ?_, fun k => ?_⟩, fun s v b runFor here ended => ?_⟩
  · rw [hostCall, budgetOf_neg negative]
    exact beginOn_eq here
  · rw [hostCall, budgetOf_natCast]
    exact beginOn_eq here
  · refine step_runFor_return runFor here ?_
    rcases ended with notRunning | rfl
    · exact State.engineTurn_of_not_running here notRunning
    · exact State.engineTurn_of_budget_zero runFor

/-- Settles O38, by induction on the budget: RunFor returns now, or runs an instruction and goes on with one tick less. -/
theorem runForReturnsWithinBudget : Obligations.RunForReturnsWithinBudget := by
  intro k
  induction k with
  | zero =>
    intro s runFor hv
    obtain ⟨v, here⟩ := Option.isSome_iff_exists.mp hv
    exact ⟨0, s, v, Nat.le_refl _, rfl, runFor, here, step_runFor_return runFor here (State.engineTurn_of_budget_zero runFor)⟩
  | succ k ih =>
    intro s runFor hv
    obtain ⟨v, here⟩ := Option.isSome_iff_exists.mp hv
    cases turn : s.engineTurn with
    | false => exact ⟨0, s, v, Nat.zero_le _, rfl, runFor, here, step_runFor_return runFor here turn⟩
    | true =>
      obtain ⟨u, first, left, there⟩ := step_runFor_turn runFor turn
      obtain ⟨m, t, w, within, run, budget, last, ends⟩ := ih u left there
      exact ⟨m + 1, t, w, Nat.succ_le_succ within, (core_run_succ m first).trans run, by rw [budget, Nat.add_sub_add_right],
        last, ends⟩

end Sys2Proof.Machine

/-! PROOFS. The operate instructions (40_operate.md R100 to R104): the row of the opcode table that a word is of, with its
operand fields, decides what it decodes to, and an instruction that ends in a result writes it and its flags. -/

namespace Sys2Proof

/-! ### From a row of the opcode table to the decoder -/

/-- A word that matches a row under the row's mask holds the row's fixed fields (R62, R69). -/
theorem fixedFields_of_row {i : Instr} {w : Word} (row : w &&& rowMask i = rowMatch i) : ∀ f ∈ fixedFields i, f.In w :=
  fun f hf => (field_eq_of_and_eq (row.trans (rowMatch_and_rowMask i).symm) fun k hk place =>
    (inFields_fixedFields_iff i k hk).mp ⟨f, hf, place⟩).trans (fixedFields_in_rowMatch i f hf)

/-- A word that matches a well-formed instruction's row and holds its operands decodes to it. -/
theorem decode_of_row {i : Instr} {w : Word} (wf : i.wellFormed = true) (row : w &&& rowMask i = rowMatch i)
    (operands : ∀ f ∈ operandFields i, f.In w) : decode w = i :=
  decode_of_formatOf wf (List.forall_mem_append.mpr ⟨fixedFields_of_row row, operands⟩)

namespace Machine

/-! ### Operand fields (R10, R63) -/

/-- The number in bits [hi:lo], as a bit vector of their count, is the field. -/
@[simp] theorem ofNat_bitsAt (w : Word) {hi lo len : Nat} (count : hi + 1 - lo = len) :
    BitVec.ofNat len (bitsAt w hi lo) = field w lo len := by
  subst count
  exact BitVec.eq_of_toNat_eq (by simp [bitsAt, toNat_field])

/-- The register that bits [hi:lo] name, when they are three bits. -/
@[simp] theorem regAt_eq_regField (w : Word) {hi lo : Nat} (count : hi + 1 - lo = 3) : regAt w hi lo = regField w lo :=
  Fin.ext (by simp [regAt, bitsAt, count, val_regField])

/-! ### A result and its flags (R28) -/

theorem Vm.onlyResult_writeResult (v : Vm) (dr : RegIdx) (w : Word) : v.OnlyResult (v.writeResult dr w) dr w where
  result := by simp
  flags := v.writeResult_flags dr w
  regs r other := by simp [other]
  memory _ := rfl
  pc := v.writeResult_pc dr w
  control := ⟨rfl, rfl, rfl, rfl, rfl⟩

/-- An instruction whose effect is the write of a result changes that register and the flags of the VM at `cur`, and
nothing else of the block. -/
theorem exec_onlyResult {i : Instr} {dr : RegIdx} {w : Word} {s : State} {v : Vm} (here : s.vm? = some v)
    (effect : v.effect s.cfg i = v.writeResult dr w) :
    ∃ t v', exec i s = .next t ∧ s.SameBut t s.cur ∧ t.vm? = some v' ∧ v.OnlyResult v' dr w := by
  obtain ⟨t, next, others, there⟩ := exec_on here i
  exact ⟨t, _, next, others, there, effect ▸ v.onlyResult_writeResult dr w⟩

/-! ### The statements -/

/-- Settles O1: the row and the three registers of a word, and the sum as the result. -/
theorem addRegisterForm : Obligations.AddRegisterForm :=
  ⟨fun _ row => decode_of_row rfl row (by simp), fun _ _ _ _ _ here => exec_onlyResult here rfl⟩

/-- Settles O2: the row, the two registers and the immediate of a word, and the sum as the result. -/
theorem addImmediateForm : Obligations.AddImmediateForm :=
  ⟨fun _ row => decode_of_row rfl row (by simp), fun _ _ _ _ _ here => exec_onlyResult here rfl⟩

/-- Settles O3: the row and the three registers of a word, and the bitwise AND as the result. -/
theorem andRegisterForm : Obligations.AndRegisterForm :=
  ⟨fun _ row => decode_of_row rfl row (by simp), fun _ _ _ _ _ here => exec_onlyResult here rfl⟩

/-- Settles O4: the row, the two registers and the immediate of a word, and the bitwise AND as the result. -/
theorem andImmediateForm : Obligations.AndImmediateForm :=
  ⟨fun _ row => decode_of_row rfl row (by simp), fun _ _ _ _ _ here => exec_onlyResult here rfl⟩

/-- Settles O5: the row and the two registers of a word, and the complement as the result. -/
theorem notComplementsRegister : Obligations.NotComplementsRegister :=
  ⟨fun _ row => decode_of_row rfl row (by simp), fun _ _ _ _ here => exec_onlyResult here rfl⟩

end Machine

end Sys2Proof

/-! PROOFS. Data movement (41_data_movement.md R110 to R117): a load is MemRead's word with its side effect, a store writes
one word, and the pointer read of the indirect forms is a MemRead that comes before either. -/

namespace Sys2Proof.Machine

/-! ### One load and one store (R110, R114) -/

theorem Vm.onlyLoaded_loadInto (v : Vm) (dr : RegIdx) (ea : Word) : v.OnlyLoaded (v.loadInto dr ea) dr ea where
  result := by simp
  flags := v.loadInto_flags dr ea
  regs r other := by simp [other]
  memory a := by rw [v.loadInto_mem]
  pending := v.loadInto_pending dr ea
  pc := v.loadInto_pc dr ea
  run := v.loadInto_run dr ea
  blocked := ⟨v.loadInto_blockedInput dr ea, v.loadInto_blockedOutput dr ea, v.loadInto_initialised dr ea⟩
  plain elsewhere := ⟨fun a => by simp [elsewhere], by simp [elsewhere]⟩
  status wf here := by
    subst here
    simp [Vm.memRead_kbsr wf]

theorem Vm.onlyStored_memWrite (v : Vm) (ea w : Word) : v.OnlyStored (v.memWrite ea w) ea w where
  stored wf := Memory.read_write_same wf ea w
  memory _ other := Memory.read_write_other v.mem w other
  regs := v.reg_memWrite ea w
  flags := v.memWrite_flags ea w
  pc := v.memWrite_pc ea w
  control := ⟨rfl, rfl, rfl, rfl, rfl⟩

/-! ### After the pointer read (R54, R111, R115): what a read cannot change is the same before and after it -/

@[simp] theorem Vm.sameRegs_afterRead_iff {v v' : Vm} {a : Word} : (v.afterRead a).SameRegs v' ↔ v.SameRegs v' := by
  simp [Vm.SameRegs]

@[simp] theorem Vm.sameRegsBut_afterRead_iff {v v' : Vm} {a : Word} {dr : RegIdx} :
    (v.afterRead a).SameRegsBut v' dr ↔ v.SameRegsBut v' dr := by
  simp [Vm.SameRegsBut]

@[simp] theorem Vm.sameBlocked_afterRead_iff {v v' : Vm} {a : Word} :
    (v.afterRead a).SameBlocked v' ↔ v.SameBlocked v' := by
  simp [Vm.SameBlocked]

/-- A load that follows a read, seen from the VM before the read (R111). -/
theorem Vm.OnlyLoaded.before_read {v v' : Vm} {a ea : Word} {dr : RegIdx} (h : (v.afterRead a).OnlyLoaded v' dr ea) :
    v.SameRegsBut v' dr ∧ v'.pc = v.pc ∧ v'.run = v.run ∧ v.SameBlocked v' ∧ (a ≠ kbsr → v.OnlyLoaded v' dr ea) :=
  ⟨by simpa using h.regs, by simpa using h.pc, by simpa using h.run, by simpa using h.blocked,
    fun plain => v.afterRead_of_ne plain ▸ h⟩

/-- A store that follows a read, seen from the VM before the read (R115). -/
theorem Vm.OnlyStored.before_read {v v' : Vm} {a ea w : Word} (h : (v.afterRead a).OnlyStored v' ea w) :
    v.SameRegs v' ∧ v'.flags = v.flags ∧ v'.pc = v.pc ∧ v'.run = v.run ∧ v.SameBlocked v' ∧
      (a ≠ kbsr → v.OnlyStored v' ea w) := by
  obtain ⟨run, -, blocked⟩ := h.control
  exact ⟨by simpa using h.regs, by simpa using h.flags, by simpa using h.pc, by simpa using run, by simpa using blocked,
    fun plain => v.afterRead_of_ne plain ▸ h⟩

/-! ### An instruction on the block -/

/-- What holds of an instruction's effect holds of the VM at `cur` after it, and nothing else of the block changes. -/
theorem exec_leaves {i : Instr} {s : State} {v : Vm} {P : Vm → Prop} (here : s.vm? = some v)
    (effect : P (v.effect s.cfg i)) :
    ∃ t v', exec i s = .next t ∧ s.SameBut t s.cur ∧ t.vm? = some v' ∧ P v' := by
  obtain ⟨t, next, others, there⟩ := exec_on here i
  exact ⟨t, _, next, others, there, effect⟩

/-! ### The statements -/

/-- Settles O6: the row, the register and the offset of a word, and the load at the PC-relative address. -/
theorem loadPcRelative : Obligations.LoadPcRelative :=
  ⟨fun _ row => decode_of_row rfl row (by simp),
    fun _ v dr off here => exec_leaves here (v.onlyLoaded_loadInto dr (v.pcRel9 off))⟩

/-- Settles O7: the row, the register and the offset of a word, and the load at the pointer after the pointer's read. -/
theorem loadIndirect : Obligations.LoadIndirect := by
  refine ⟨fun _ row => decode_of_row rfl row (by simp), fun s v dr off a here ea => exec_leaves here ?_⟩
  subst ea
  have loaded := (v.afterIndirect off).onlyLoaded_loadInto dr (v.indirect off)
  exact ⟨loaded, loaded.before_read⟩

/-- Settles O8: the row, the two registers and the offset of a word, and the load at the base + offset address. -/
theorem loadBaseOffset : Obligations.LoadBaseOffset :=
  ⟨fun _ row => decode_of_row rfl row (by simp),
    fun _ v dr base off here => exec_leaves here (v.onlyLoaded_loadInto dr (v.baseOffset base off))⟩

/-- Settles O9: the row, the register and the offset of a word, and the address itself as the result. -/
theorem loadEffectiveAddress : Obligations.LoadEffectiveAddress :=
  ⟨fun _ row => decode_of_row rfl row (by simp), fun _ _ _ _ here => exec_onlyResult here rfl⟩

/-- Settles O10: the row, the register and the offset of a word, and the store at the PC-relative address. -/
theorem storePcRelative : Obligations.StorePcRelative :=
  ⟨fun _ row => decode_of_row rfl row (by simp),
    fun _ v sr off here => exec_leaves here (v.onlyStored_memWrite (v.pcRel9 off) (v.reg sr))⟩

/-- Settles O11: the row, the register and the offset of a word, and the store at the pointer after the pointer's read. -/
theorem storeIndirect : Obligations.StoreIndirect := by
  refine ⟨fun _ row => decode_of_row rfl row (by simp), fun s v sr off a here ea => exec_leaves here ?_⟩
  subst ea
  have stored := (v.afterIndirect off).onlyStored_memWrite (v.indirect off) (v.reg sr)
  exact ⟨stored, stored.before_read⟩

/-- Settles O12: the row, the two registers and the offset of a word, and the store at the base + offset address. -/
theorem storeBaseOffset : Obligations.StoreBaseOffset :=
  ⟨fun _ row => decode_of_row rfl row (by simp),
    fun _ v sr base off here => exec_leaves here (v.onlyStored_memWrite (v.baseOffset base off) (v.reg sr))⟩

end Sys2Proof.Machine

/-! PROOFS. Control transfer (42_control.md R130 to R134): a branch or a jump sets pc alone, a call links R7 first. -/

namespace Sys2Proof.Machine

/-! ### A jump and a call -/

theorem Vm.onlyPc_jump (v : Vm) (target : Word) : v.OnlyPc { v with pc := target } target where
  pc := rfl
  regs _ := rfl
  flags := rfl
  memory _ := rfl
  control := ⟨rfl, rfl, rfl, rfl, rfl⟩

/-- BR as one jump: to its target when it branches, else to where pc already is (R130). -/
theorem Vm.effect_br_eq_jump (v : Vm) (cfg : Config) (cond : CondBits) (off : BitVec 9) :
    v.effect cfg (.br cond off) =
      { v with pc := if cond = 0b000#3 ∨ cond &&& v.flags ≠ 0b000#3 then v.pc + sext off else v.pc } := by
  simp only [Vm.effect, branchTaken, decide_eq_true_eq]
  split
  · rfl
  · rfl

/-- The flags after the link (R132, D6). -/
@[simp] theorem Vm.link_flags (v : Vm) (cfg : Config) :
    (v.link cfg).flags = if cfg.jsrSetsFlags then flagsOf v.pc else v.flags := by
  unfold Vm.link
  split <;> rfl

theorem Vm.link_sameRegsBut (v : Vm) (cfg : Config) : v.SameRegsBut (v.link cfg) 7 :=
  fun r other => (v.reg_link cfg r).trans (if_neg other)

theorem Vm.link_sameControl (v : Vm) (cfg : Config) : v.SameControl (v.link cfg) :=
  ⟨v.link_run cfg, v.link_pending cfg, v.link_blockedInput cfg, v.link_blockedOutput cfg, v.link_initialised cfg⟩

/-- An instruction whose effect is the link and then a jump leaves the return address in R7, the target in pc and the
flags of the link, and nothing else of the block changes. -/
theorem exec_call {i : Instr} {target : Word} {s : State} {v : Vm} (here : s.vm? = some v)
    (effect : v.effect s.cfg i = { v.link s.cfg with pc := target }) :
    ∃ t v', exec i s = .next t ∧ s.SameBut t s.cur ∧ t.vm? = some v' ∧
      v'.reg 7 = v.pc ∧ v'.pc = target ∧ v'.flags = (if s.cfg.jsrSetsFlags then flagsOf v.pc else v.flags) ∧
      v.SameRegsBut v' 7 ∧ v.SameMemory v' ∧ v.SameControl v' := by
  refine exec_leaves here ?_
  rw [effect]
  exact ⟨v.reg_link s.cfg 7, rfl, v.link_flags s.cfg, v.link_sameRegsBut s.cfg, fun a => by rw [v.link_mem],
    v.link_sameControl s.cfg⟩

/-! ### The statements -/

/-- Settles O13: the row, the condition and the offset of a word, and pc alone set, by whether BR branches. -/
theorem conditionalBranch : Obligations.ConditionalBranch :=
  ⟨fun _ row => decode_of_row rfl row (by simp),
    fun s v cond off here => exec_leaves here (v.effect_br_eq_jump s.cfg cond off ▸ v.onlyPc_jump _)⟩

/-- Settles O14: the row and the register of a word, and pc alone set to the register. -/
theorem jumpThroughRegister : Obligations.JumpThroughRegister :=
  ⟨fun _ row => decode_of_row rfl row (by simp), fun _ v base here => exec_leaves here (v.onlyPc_jump (v.reg base))⟩

/-- Settles O15: the row and the offset of a word, and the call of the PC-relative target. -/
theorem jumpSubroutine : Obligations.JumpSubroutine :=
  ⟨fun _ row => decode_of_row rfl row (by simp), fun _ _ _ here => exec_call here rfl⟩

/-- Settles O16: the row and the register of a word, and the call of what the register holds after the link. -/
theorem jumpSubroutineRegister : Obligations.JumpSubroutineRegister :=
  ⟨fun _ row => decode_of_row rfl row (by simp),
    fun s v base here => v.reg_link s.cfg base ▸ exec_call here rfl⟩

end Sys2Proof.Machine

/-! PROOFS. TRAP, RTI and RES (43_trap_and_reserved.md R140 to R142): a TRAP word enters Trapped on its own vector, RTI and
the reserved opcode stop the VM, and nothing else changes but the R7 of a TRAP. -/

namespace Sys2Proof.Machine

/-! ### Words of opcode 0xF -/

/-- A word of opcode 0xF is left to the decoder of the TRAP rows (R69). -/
theorem decode_eq_decodeTrap {w : Word} (op : field w 12 4 = 0xF#4) : decode w = decodeTrap w := by
  simp [decode, op]

/-- Each TRAP row, a service's own or the plain one, enters Trapped on the vector of the word (R140). -/
theorem newRunState_decodeTrap (w : Word) : newRunState (decodeTrap w) = some (.trapped (field w 0 8)) := by
  have service {n : BitVec 8} (h : (field w 0 8).toNat = n.toNat) :
      some (RunState.trapped n) = some (.trapped (field w 0 8)) :=
    congrArg (fun m => some (RunState.trapped m)) (BitVec.eq_of_toNat_eq h.symm)
  unfold decodeTrap
  split
  case h_7 => rfl
  all_goals exact service ‹_›

/-! ### Trap entry -/

/-- R7 after trap entry is pc only when `TRAP_WRITES_R7` is true (R140, I19). -/
theorem Vm.enterTrap_reg_seven (v : Vm) (cfg : Config) (n : BitVec 8) :
    (v.enterTrap cfg n).reg 7 = if cfg.trapWritesR7 then v.pc else v.reg 7 := by simp

theorem Vm.enterTrap_sameRegsBut (v : Vm) (cfg : Config) (n : BitVec 8) : v.SameRegsBut (v.enterTrap cfg n) 7 :=
  fun r other => by simp [other]

theorem Vm.enterTrap_sameBlocked (v : Vm) (cfg : Config) (n : BitVec 8) : v.SameBlocked (v.enterTrap cfg n) :=
  ⟨v.enterTrap_blockedInput cfg n, v.enterTrap_blockedOutput cfg n, v.enterTrap_initialised cfg n⟩

/-- An instruction whose effect is trap entry leaves Trapped on that vector and at most a new R7, and nothing else of the
block changes. -/
theorem exec_trap_entry {i : Instr} {n : BitVec 8} {s : State} {v : Vm} (here : s.vm? = some v)
    (effect : v.effect s.cfg i = v.enterTrap s.cfg n) :
    ∃ t v', exec i s = .next t ∧ s.SameBut t s.cur ∧ t.vm? = some v' ∧
      v'.run = .trapped n ∧ v'.pc = v.pc ∧ v'.reg 7 = (if s.cfg.trapWritesR7 then v.pc else v.reg 7) ∧
      v.SameRegsBut v' 7 ∧ v'.flags = v.flags ∧ v.SameMemory v' ∧ v'.pending = v.pending ∧ v.SameBlocked v' := by
  refine exec_leaves here ?_
  rw [effect]
  exact ⟨v.enterTrap_run s.cfg n, v.enterTrap_pc s.cfg n, v.enterTrap_reg_seven s.cfg n, v.enterTrap_sameRegsBut s.cfg n,
    v.enterTrap_flags s.cfg n, fun a => by rw [v.enterTrap_mem], v.enterTrap_pending s.cfg n,
    v.enterTrap_sameBlocked s.cfg n⟩

/-! ### Stopping -/

/-- An instruction whose effect is the stop leaves Stopped, and nothing else of the block changes. -/
theorem exec_stop {i : Instr} {s : State} {v : Vm} (here : s.vm? = some v) (effect : v.effect s.cfg i = v.stop) :
    ∃ t v', exec i s = .next t ∧ s.SameBut t s.cur ∧ t.vm? = some v' ∧
      v'.run = .stopped ∧ v'.pc = v.pc ∧ v.SameRegs v' ∧ v'.flags = v.flags ∧ v.SameMemory v' ∧
      v'.pending = v.pending ∧ v.SameBlocked v' := by
  refine exec_leaves here ?_
  rw [effect]
  exact ⟨v.stop_run, v.stop_pc, v.reg_stop, v.stop_flags, fun _ => rfl, v.stop_pending, rfl, rfl, rfl⟩

/-! ### The statements -/

/-- Settles O17: the opcode and the vector of a word, and trap entry as the effect of the plain row and of each service
row. -/
theorem trapEntersTrapped : Obligations.TrapEntersTrapped := by
  refine ⟨fun w row => ?_, fun s v i n here rows => exec_trap_entry here ?_⟩
  · have op : field w 12 4 = 0xF#4 := fixedFields_of_row (i := .trap 0#8) row _ (List.mem_singleton_self _)
    rw [decode_eq_decodeTrap op, newRunState_decodeTrap, ofNat_bitsAt (hi := 7) (len := 8) w rfl]
  · rcases rows with rfl | ⟨rfl, rfl⟩ | ⟨rfl, rfl⟩ | ⟨rfl, rfl⟩ | ⟨rfl, rfl⟩ | ⟨rfl, rfl⟩ | ⟨rfl, rfl⟩
    all_goals rfl

/-- Settles O18: the row of a word, and the stop as the effect of both instructions. -/
theorem rtiAndReservedStopTheVm : Obligations.RtiAndReservedStopTheVm := by
  refine ⟨fun _ row => decode_of_row rfl row (by simp), fun _ row => decode_of_row rfl row (by simp),
    fun s v i here rows => exec_stop here ?_⟩
  rcases rows with rfl | rfl
  · rfl
  · rfl

end Sys2Proof.Machine

/-! PROOFS. The trap services (44_trap_services.md R150 to R157): on a VM that is not Stopped the dispatcher's arm decides
what is left of the VM and what is appended to the output; a string's walk ends at its zero word, or never; and the host's
`Trap` and the boot loop perform that same service. -/

namespace Sys2Proof.Machine

/-! ### The bytes of a word (R10, R152, R155) -/

theorem lowByte_eq_ofNat_bitsAt (w : Word) : lowByte w = BitVec.ofNat 8 (bitsAt w 7 0) :=
  BitVec.eq_of_toNat_eq (by simp [lowByte, bitsAt])

theorem highByte_eq_ofNat_bitsAt (w : Word) : highByte w = BitVec.ofNat 8 (bitsAt w 15 8) :=
  (ofNat_bitsAt (hi := 15) (lo := 8) w rfl).symm

theorem highByte_eq_zero_iff (w : Word) : highByte w = 0x00#8 ↔ bitsAt w 15 8 = 0 := by
  have number : (highByte w).toNat = bitsAt w 15 8 := toNat_field w 8 8
  rw [← number, BitVec.toNat_eq]
  rfl

theorem zext_lowByte_eq_ofNat_bitsAt (w : Word) : zext (lowByte w) = BitVec.ofNat 16 (bitsAt w 7 0) := by
  rw [lowByte_eq_ofNat_bitsAt]
  exact BitVec.eq_of_toNat_eq (by simp [zext, bitsAt])

/-! ### The string at R0 (R153, R155) -/

/-- A string's first word and the string after it. -/
theorem stringAt_cons {v : Vm} {a w : Word} {words : List Word} (h : StringAt v a (w :: words)) :
    v.rawRead a = w ∧ w ≠ 0#16 ∧ StringAt v (a + 1#16) words := by
  obtain ⟨entries, last⟩ := h
  have next (k : Nat) : a + 1#16 + BitVec.ofNat 16 k = a + BitVec.ofNat 16 (k + 1) := by
    rw [BitVec.add_assoc, BitVec.ofNat_add, BitVec.add_comm 1#16]
  obtain ⟨first, nonzero⟩ := entries 0 (Nat.succ_pos _)
  refine ⟨by simpa [Vm.rawRead] using first, nonzero, fun k hk => ?_, ?_⟩
  · rw [next]
    exact entries (k + 1) (Nat.succ_lt_succ hk)
  · rw [next]
    exact last

/-- A string is shorter than memory: its zero word lies at none of the addresses before it. -/
theorem length_lt_of_stringAt {v : Vm} {a : Word} {words : List Word} (h : StringAt v a words) : words.length < 65536 := by
  by_contra long
  obtain ⟨entries, last⟩ := h
  have before : words.length % 65536 < words.length := by omega
  have wrapped : BitVec.ofNat 16 (words.length % 65536) = BitVec.ofNat 16 words.length :=
    BitVec.eq_of_toNat_eq (by simp)
  obtain ⟨same, nonzero⟩ := entries _ before
  rw [wrapped, last] at same
  exact nonzero same.symm

/-- The walk over a string gives its words, when it may look at one word more than they are. -/
theorem stringWords_of_stringAt {v : Vm} {words : List Word} {a : Word} {fuel : Nat} (h : StringAt v a words)
    (enough : words.length < fuel) : stringWords v fuel a = some words := by
  induction words generalizing a fuel with
  | nil =>
    obtain ⟨fuel, rfl⟩ := Nat.exists_eq_add_one_of_ne_zero (Nat.ne_zero_of_lt enough)
    obtain ⟨-, last⟩ := h
    have ends : v.rawRead a = 0#16 := by simpa [Vm.rawRead] using last
    rw [stringWords, if_pos ends]
  | cons w words ih =>
    obtain ⟨fuel, rfl⟩ := Nat.exists_eq_add_one_of_ne_zero (Nat.ne_zero_of_lt enough)
    obtain ⟨rfl, nonzero, rest⟩ := stringAt_cons h
    rw [stringWords, if_neg nonzero, ih rest (Nat.lt_of_succ_lt_succ enough)]

/-- The walk over a memory with no zero word finds no end, however far it looks. -/
theorem stringWords_of_no_zero {v : Vm} (h : ∀ a : Word, v.mem.read a ≠ 0#16) (fuel : Nat) (a : Word) :
    stringWords v fuel a = none := by
  induction fuel generalizing a with
  | zero => rfl
  | succ fuel ih =>
    have goesOn : v.rawRead a ≠ 0x0000#16 := h a
    rw [stringWords, if_neg goesOn, ih]

theorem Vm.stringAtR0_resume_of_stringAt {v : Vm} {words : List Word} (h : StringAt v (v.reg 0) words) :
    v.resume.stringAtR0 = some words :=
  stringWords_of_stringAt (v := v.resume) h (length_lt_of_stringAt h)

theorem Vm.stringAtR0_resume_of_no_zero {v : Vm} (h : ∀ a : Word, v.mem.read a ≠ 0#16) : v.resume.stringAtR0 = none :=
  stringWords_of_no_zero (v := v.resume) h _ _

/-- PUTS emits the low byte of each word (R153). -/
theorem bytesOut_putsBytes (words : List Word) :
    bytesOut (words.flatMap putsBytes) = words.map fun w => .byte (BitVec.ofNat 8 (bitsAt w 7 0)) := by
  simp only [bytesOut, List.map_flatMap, putsBytes, List.map_singleton, lowByte_eq_ofNat_bitsAt]
  exact List.map_eq_flatMap.symm

/-- PUTSP emits the low byte of each word, and then the high byte if it is nonzero (R155). -/
theorem bytesOut_putspBytes (words : List Word) :
    bytesOut (words.flatMap putspBytes) = words.flatMap fun w => .byte (BitVec.ofNat 8 (bitsAt w 7 0)) ::
      if bitsAt w 15 8 = 0 then [] else [.byte (BitVec.ofNat 8 (bitsAt w 15 8))] := by
  have word (w : Word) : (putspBytes w).map OutEvent.byte = .byte (BitVec.ofNat 8 (bitsAt w 7 0)) ::
      if bitsAt w 15 8 = 0 then [] else [.byte (BitVec.ofNat 8 (bitsAt w 15 8))] := by
    simp only [putspBytes, highByte_eq_zero_iff, ← lowByte_eq_ofNat_bitsAt, ← highByte_eq_ofNat_bitsAt]
    split <;> rfl
  simp only [bytesOut, List.map_flatMap, word]

/-! ### The key that GETC and IN take (R151, R154) -/

/-- With a key pending, it is the key's low byte, zero-extended. -/
theorem Vm.takenKey_of_pending {v : Vm} {k : Word} (pending : v.pending = some k) (draw : Nat) :
    v.takenKey draw = BitVec.ofNat 16 (bitsAt k 7 0) := by
  rw [Vm.takenKey, pending]
  exact zext_lowByte_eq_ofNat_bitsAt k

/-- A service that takes a key leaves the flags, but with `TRAP_SETS_FLAGS` = true (R150, D9). -/
@[simp] theorem Vm.receiveKey_flags (v : Vm) (cfg : Config) (w : Word) :
    (v.receiveKey cfg w).flags = if cfg.trapSetsFlags then flagsOf w else v.flags := by
  simp only [Vm.receiveKey]
  split <;> rfl

/-! ### A service on a VM of the block (R150) -/

/-- On a VM that is not Stopped `Trap(n)` is the dispatcher's arm for `n`, on the VM set to Running. -/
theorem Vm.trapService_of_not_stopped {v : Vm} (awake : v.run ≠ .stopped) (cfg : Config) (draw : Nat) (n : Byte) :
    v.trapService cfg draw n = serviceFor cfg draw v.resume n := by
  unfold Vm.trapService
  split
  · exact absurd ‹_› awake
  · rfl

/-- The dispatcher's arm for a number outside 0x20 to 0x25 (R157). -/
theorem serviceFor_of_unknown {n : Byte} (unknown : n.toNat < 0x20 ∨ 0x25 < n.toNat) (cfg : Config) (draw : Nat) (v : Vm) :
    serviceFor cfg draw v n = some (serviceOther v) := by
  unfold serviceFor
  split
  case h_7 => rfl
  all_goals omega

section Awake

variable {s : State} {i : Nat} {v : Vm} {n : Byte} (here : s.vmAt i = some v) (awake : v.run ≠ .stopped)
include here awake

/-- An arm that completes with `r` leaves `r`'s VM at the index and appends `r`'s events, within the frame of every
service. -/
theorem trapAt_completes {r : Served} (served : serviceFor s.cfg s.draws v.resume n = some r) :
    ∃ t, trapAt i n s = .next t ∧ s.SameButServed t i ∧ t.vmAt i = some r.vm ∧ v.ServiceFrame r.vm r.vm.run ∧
      t.output = s.output ++ r.events := by
  have frame : v.resume.ServedFrom s.cfg r.vm := serviceFor_servedFrom served
  refine ⟨((s.onVmAt i fun _ => r.vm).emit r.events).drawn r.draws, ?_, s.sameBut_onVmAt i fun _ => r.vm, ?_,
    ⟨rfl, frame.regs, fun a => by rw [frame.mem, v.resume_mem], frame.pc, frame.blocked⟩, rfl⟩
  · simp only [trapAt, here, Vm.trapService_of_not_stopped awake, served]
  · exact (s.vmAt_onVmAt i i fun _ => r.vm).trans (by simp [here])

/-- An arm that changes the execution state alone, to `run`. -/
theorem trapAt_keeps {run : RunState} {events out : List OutEvent} {draws : Nat}
    (served : serviceFor s.cfg s.draws v.resume n = some ⟨{ v with run := run }, events, draws⟩)
    (output : s.output ++ events = out) :
    ∃ t v', trapAt i n s = .next t ∧ s.SameButServed t i ∧ t.vmAt i = some v' ∧
      v.ServiceFrame v' run ∧ v'.reg 0 = v.reg 0 ∧ v'.pending = v.pending ∧ v'.flags = v.flags ∧ t.output = out := by
  obtain ⟨t, next, others, there, frame, emitted⟩ := trapAt_completes here awake served
  exact ⟨t, _, next, others, there, frame, rfl, rfl, rfl, emitted.trans output⟩

/-- An arm that takes the pending key into R0. -/
theorem trapAt_takesKey {events : List OutEvent} {draws : Nat}
    (served : serviceFor s.cfg s.draws v.resume n =
      some ⟨v.resume.receiveKey s.cfg (v.resume.takenKey s.draws), events, draws⟩) :
    ∃ t v', trapAt i n s = .next t ∧ s.SameButServed t i ∧ t.vmAt i = some v' ∧ v.ServiceFrame v' .running ∧
      v'.pending = none ∧ v'.flags = (if s.cfg.trapSetsFlags then flagsOf (v'.reg 0) else v.flags) ∧
      v'.reg 0 = v.resume.takenKey s.draws ∧ t.output = s.output ++ events ∧
      ∀ k : Word, v.pending = some k → v'.reg 0 = BitVec.ofNat 16 (bitsAt k 7 0) := by
  obtain ⟨t, next, others, there, frame, emitted⟩ := trapAt_completes here awake served
  have taken : (v.resume.receiveKey s.cfg (v.resume.takenKey s.draws)).reg 0 = v.resume.takenKey s.draws := by simp
  have running : (v.resume.receiveKey s.cfg (v.resume.takenKey s.draws)).run = .running := by simp
  refine ⟨t, _, next, others, there, running ▸ frame, rfl, ?_, taken, emitted, fun k pending => ?_⟩
  · rw [taken, Vm.receiveKey_flags, Vm.resume_flags]
  · rw [taken, Vm.takenKey_of_pending (v := v.resume) pending]

/-- An arm that never completes is the stuck state (R153, R155). -/
theorem trapAt_hangs (hangs : serviceFor s.cfg s.draws v.resume n = none) :
    trapAt i n s = .fault .serviceNeverCompletes := by
  simp only [trapAt, here, Vm.trapService_of_not_stopped awake, hangs]

end Awake

/-! ### `Trap` by the host (R150, R193) -/

/-- Putting back the VM that is there changes nothing. -/
theorem State.onVmAt_same {s : State} {i : Nat} {v : Vm} (here : s.vmAt i = some v) : (s.onVmAt i fun _ => v) = s := by
  obtain ⟨slot, at_i, rfl⟩ := Option.map_eq_some_iff.mp here
  have entries : (s.onVmAt i fun _ => slot.vm).vms = s.vms := List.ext_getElem? fun j => by
    rw [State.getElem?_onVmAt]
    split
    · subst j
      rw [at_i]
      rfl
    · rfl
  exact congrArg (fun vms => { s with vms := vms }) entries

/-- On a Stopped VM `Trap(n)` changes nothing of the block (R150). -/
theorem trapAt_of_stopped {s : State} {i : Nat} {v : Vm} (here : s.vmAt i = some v) (stopped : v.run = .stopped) (n : Byte) :
    trapAt i n s = .next s := by
  simp only [trapAt, here, Vm.trapService_of_stopped stopped, serviceOther, State.onVmAt_same here]
  simp [State.emit, State.drawn]

/-- After a service that completes the host gets the VM's execution state. -/
theorem hostTrap_of_next {s t : State} {i : Nat} {n : Word} {v : Vm} (served : trapAt i (lowByte n) s = .next t)
    (there : t.vmAt i = some v) : hostTrap i n s = .next (t.reply (.state v.run)) := by
  simp [hostTrap, served, there]

/-- A service that never completes leaves the host's call without a return. -/
theorem hostTrap_of_fault {s : State} {i : Nat} {n : Word} {r : Fault} (served : trapAt i (lowByte n) s = .fault r) :
    hostTrap i n s = .fault r := by
  simp [hostTrap, served]

/-! ### The statements -/

/-- Settles O21: the walk gives the string's words, each emits its low byte, and with no zero word the walk never ends. -/
theorem putsWritesTheString : Obligations.PutsWritesTheString := by
  refine ⟨fun s i v words here awake string => ?_, fun s i v here awake noZero => trapAt_hangs here awake ?_⟩
  · have served : servicePuts v.resume = some ⟨v.resume, bytesOut (words.flatMap putsBytes) ++ [.flush], 0⟩ := by
      rw [servicePuts, Vm.stringAtR0_resume_of_stringAt string]
    refine trapAt_keeps here awake served ?_
    rw [bytesOut_putsBytes, List.append_assoc]
  · change servicePuts v.resume = none
    rw [servicePuts, Vm.stringAtR0_resume_of_no_zero noZero]

/-- Settles O23: the walk is that of PUTS, and each word emits its low byte and then its nonzero high byte. -/
theorem putspWritesPackedBytes : Obligations.PutspWritesPackedBytes := by
  refine ⟨fun s i v words here awake string => ?_, fun s i v here awake noZero => trapAt_hangs here awake ?_⟩
  · have served : servicePutsp v.resume = some ⟨v.resume, bytesOut (words.flatMap putspBytes) ++ [.flush], 0⟩ := by
      rw [servicePutsp, Vm.stringAtR0_resume_of_stringAt string]
    refine trapAt_keeps here awake served ?_
    rw [bytesOut_putspBytes, List.append_assoc]
  · change servicePutsp v.resume = none
    rw [servicePutsp, Vm.stringAtR0_resume_of_no_zero noZero]

/-- Settles O19: the arm takes the key and emits nothing. -/
theorem getcTakesTheKey : Obligations.GetcTakesTheKey := by
  intro s i v here awake
  obtain ⟨t, v', next, others, there, frame, consumed, flags, -, output, key⟩ :=
    trapAt_takesKey (n := 0x20#8) here awake rfl
  exact ⟨t, v', next, others, there, frame, consumed, output.trans (List.append_nil _), flags, key⟩

/-- Settles O20: the arm emits R0's low byte and a flush. -/
theorem outEmitsLowByte : Obligations.OutEmitsLowByte := fun s i v here awake =>
  have served : serviceFor s.cfg s.draws v.resume 0x21#8 = some (serviceOut v.resume) := rfl
  trapAt_keeps here awake served (by rw [← lowByte_eq_ofNat_bitsAt]; rfl)

/-- Settles O22: the arm takes the key and emits the prompt, the low byte of what R0 then holds, and a flush. -/
theorem inPromptsAndEchoes : Obligations.InPromptsAndEchoes := by
  intro s i v here awake
  obtain ⟨t, v', next, others, there, frame, consumed, flags, taken, output, key⟩ :=
    trapAt_takesKey (n := 0x23#8) here awake rfl
  refine ⟨t, v', next, others, there, frame, consumed, flags, ?_, key⟩
  rw [output, taken, ← lowByte_eq_ofNat_bitsAt]
  simp [bytesOut]

/-- Settles O24: the arm stops the VM and emits the notice and a flush. -/
theorem haltStopsTheVm : Obligations.HaltStopsTheVm := fun s _ v here awake =>
  have served : serviceFor s.cfg s.draws v.resume 0x25#8 = some (serviceHalt s.cfg v.resume) := rfl
  trapAt_keeps here awake served (List.append_assoc ..).symm

/-- Settles O25: the arm for every other number emits nothing and changes nothing of the VM set to Running. -/
theorem unknownTrapResumes : Obligations.UnknownTrapResumes := fun s _ v _ here awake unknown =>
  trapAt_keeps here awake (serviceFor_of_unknown unknown s.cfg s.draws v.resume) (List.append_nil _)

/-- Settles O26: a Stopped VM leaves the block as it is but for the reply; the number counts by its low byte alone; and
the host's call and the boot loop go through `trapAt`. -/
theorem trapOnStoppedIsNoOperation : Obligations.TrapOnStoppedIsNoOperation := by
  refine ⟨fun s i v n here stopped => ?_, fun s i n m same => ?_, fun s i v n here awake => ⟨fun t v' served there => ?_,
    fun r served => ?_⟩, fun s v n drive here trapped => ?_⟩
  · have same : s.SameBut s i := by simpa [State.onVmAt_same here] using s.sameBut_onVmAt i fun _ => v
    exact ⟨_, hostTrap_of_next (trapAt_of_stopped here stopped _) here, here, rfl, same, by rw [stopped]; rfl⟩
  · simp only [hostTrap, lowByte_eq_ofNat_bitsAt, same]
  · exact hostTrap_of_next (lowByte_eq_ofNat_bitsAt n ▸ served) there
  · exact hostTrap_of_fault (lowByte_eq_ofNat_bitsAt n ▸ served)
  · simp only [step, drive, driveStep, here, trapped]

end Sys2Proof.Machine

/-! PROOFS. AddVm (60_exceptions.md R182): its three outcomes, and the VM that it adds. -/

namespace Sys2Proof.Machine

/-- Before the first round, with a loader that succeeds, the loaded VM is Reset and joins (R182). -/
theorem addVm_of_loaded {s : State} {images : List Image} {v : Vm} (early : s.started = false)
    (loaded : (Vm.construct s.cfg s.draws).loadAll images = some v) :
    addVm images s = .next ((s.join v.reset).drawn 1) := by
  simp [addVm, early, loaded]

/-- Before the first round, a loader with no result is refused (R53). -/
theorem addVm_of_not_loaded {s : State} {images : List Image} (early : s.started = false)
    (past : (Vm.construct s.cfg s.draws).loadAll images = none) : addVm images s = .refused .loadOutOfRange := by
  simp [addVm, early, past]

/-- After the first round the collection is closed (R182). -/
theorem addVm_of_started {s : State} (late : s.started = true) (images : List Image) :
    addVm images s = .refused .addVmAfterFirstRound := by
  simp [addVm, late]

/-- Settles O49: the loader changes the constructed VM's memory alone, Reset keeps that memory, and the VM joins; an image
that does not fit leaves the loader without a result. -/
theorem addVmConstructsLoadsAndResets : Obligations.AddVmConstructsLoadsAndResets := by
  refine ⟨fun s images early wf fits => ?_, fun s images early past => ?_, fun s images late => addVm_of_started late images⟩
  · obtain ⟨m, loaded, -, words⟩ := Vm.loadAll_of_fits images (Vm.construct s.cfg s.draws) wf
      fun img mem => img.fits_iff.mpr (fits img mem)
    exact ⟨_, _, addVm_of_loaded early loaded, rfl, rfl, fun r => Vm.reg_reset _ r, rfl, rfl, rfl, rfl, rfl, words,
      rfl, rfl, rfl, rfl, rfl, rfl, rfl⟩
  · obtain ⟨img, mem, long⟩ := past
    have unfit : img.fits = false :=
      Bool.eq_false_of_not_eq_true fun fits => Nat.not_le.mpr long (img.fits_iff.mp fits)
    exact addVm_of_not_loaded early (Vm.loadAll_of_not_fits _ ⟨img, mem, unfit⟩)

end Sys2Proof.Machine

/-! PROOFS. The run/block machine, `Tick()` (60_exceptions.md R177 to R181): its first step by the execution state, and its
end by the class of the trap. -/

namespace Sys2Proof.Machine

/-! ### Steps 1 and 2 (R177) -/

/-- The first step of a Tick on VM `cur`. -/
theorem step_tickService {s : State} {c : Caller} (tick : s.activity = .tick .service c) : step s = tickService c s := by
  simp only [step, tick, tickStep]

theorem tickService_of_stopped {s : State} {v : Vm} (c : Caller) (here : s.vm? = some v) (stopped : v.run = .stopped) :
    tickService c s = .next (s.tickReturn c false) := by
  simp only [tickService, here, stopped]

theorem tickService_of_running {s : State} {v : Vm} (c : Caller) (here : s.vm? = some v) (running : v.run = .running) :
    tickService c s = .next (s.enterTickRun c) := by
  simp only [tickService, here, running]

/-- On a Trapped VM a Tick waits while a blocked bit is set, and else services the trap. -/
theorem tickService_of_trapped {s : State} {v : Vm} {n : BitVec 8} (c : Caller) (here : s.vm? = some v)
    (trapped : v.run = .trapped n) :
    tickService c s = if v.unblocked then andThen (trapAt s.cur n s) fun t => t.enterTickRun c
      else .next (s.tickReturn c true) := by
  simp only [tickService, here, trapped]

/-- A VM with a blocked bit set is not unblocked (R34). -/
theorem Vm.unblocked_of_blocked {v : Vm} (blocked : v.blockedInput = true ∨ v.blockedOutput = true) :
    v.unblocked = false := by
  rcases blocked with bit | bit <;> simp [Vm.unblocked, bit]

/-- Settles O51: the host's call begins at step 1, whose outcome is by the execution state and the blocked bits. -/
theorem tickServicesOrWaits : Obligations.TickServicesOrWaits := by
  refine ⟨fun s i v here => beginOn_eq here, fun s c v tick here => ?_⟩
  rw [step_tickService tick]
  refine ⟨tickService_of_stopped c here, tickService_of_running c here, fun n trapped blocked => ?_,
    fun n trapped input output => ?_⟩
  · rw [tickService_of_trapped c here trapped, Vm.unblocked_of_blocked blocked]
    rfl
  · rw [tickService_of_trapped c here trapped, v.unblocked_iff.mpr ⟨input, output⟩]
    rfl

/-! ### Steps 3 and 4 (R177 to R179, R181) -/

theorem trapClass_eq_input_iff (n : Byte) : trapClass n = .input ↔ n = 0x20#8 ∨ n = 0x23#8 := by
  simp only [BitVec.toNat_eq, trapClass]
  split <;> simp_all

theorem trapClass_eq_output_iff (n : Byte) : trapClass n = .output ↔ n = 0x21#8 ∨ n = 0x22#8 ∨ n = 0x24#8 := by
  simp only [BitVec.toNat_eq, trapClass]
  split <;> simp_all

/-- The end of a Tick adds, by the trap number, the bit of the trap's class to the bits there are (R178, R179). -/
theorem Vm.block_eq (v : Vm) : v.block = { v with
    blockedInput := v.blockedInput || decide (v.run = .trapped 0x20#8 ∨ v.run = .trapped 0x23#8)
    blockedOutput := v.blockedOutput ||
      decide (v.run = .trapped 0x21#8 ∨ v.run = .trapped 0x22#8 ∨ v.run = .trapped 0x24#8) } := by
  obtain ⟨regs, pc, flags, run, pending, input, output, mem, initialised⟩ := v
  cases run with
  | running | stopped => simp [Vm.block]
  | trapped n =>
    simp only [RunState.trapped.injEq, ← trapClass_eq_input_iff, ← trapClass_eq_output_iff]
    cases cls : trapClass n <;> simp [Vm.block, cls]

/-- The RunFor of a Tick has no turn left when its VM is not Running, or its budget is used up (R73). -/
theorem State.engineTurn_of_tick_ended {s : State} {v : Vm} {b : Nat} {c : Caller} (tick : s.activity = .tick (.run b) c)
    (here : s.vm? = some v) (ended : v.run ≠ .running ∨ b = 0) : s.engineTurn = false := by
  rcases ended with notRunning | rfl
  · exact State.engineTurn_of_not_running here notRunning
  · simp [State.engineTurn, tick, Activity.inEngine]

/-- The end of a Tick: the blocked bit, then the return to its caller. -/
theorem step_tick_ended {s : State} {v : Vm} {b : Nat} {c : Caller} (tick : s.activity = .tick (.run b) c)
    (here : s.vm? = some v) (ended : v.run ≠ .running ∨ b = 0) :
    step s = .next ((s.onVm Vm.block).tickReturn c v.alive) := by
  simp [step, tick, tickStep, tickRun, here, State.engineTurn_of_tick_ended tick here ended]

/-- Settles O52: the end of a Tick blocks VM `cur` and returns; its return to the host is the reply alone. -/
theorem tickBlocksAndReports : Obligations.TickBlocksAndReports := by
  refine ⟨fun s b c v tick here ended => ?_, fun u alive => rfl⟩
  exact ⟨s.onVm Vm.block, step_tick_ended tick here ended, s.sameBut_onVm Vm.block, by simp [here, Vm.block_eq v]⟩

end Sys2Proof.Machine

/-! PROOFS. The start of a round (60_exceptions.md R183 to R186, R190): the poll and what the key step makes of it, and then
the output bit of the owner after it. -/

namespace Sys2Proof.Machine

/-! ### The owner and its VM -/

/-- The VM at an index after a change of the owner's VM. -/
theorem State.vmAt_onOwner {s : State} {o j : Nat} {v : Vm} (owner : s.owner = some o) (hv : s.vmAt j = some v)
    (f : Vm → Vm) : (s.onOwner f).vmAt j = some (if j = o then f v else v) := by
  rw [State.onOwner_of_some owner, State.vmAt_onVmAt, hv]
  simp only [eq_comm, Option.map_some]
  split <;> rfl

/-- With no owner there is none to follow it (log 25). -/
theorem State.cycleOwner_of_none {s : State} (owner : s.owner = none) : s.cycleOwner = s := by
  rw [State.cycleOwner, owner, Option.map_none, ← owner]

/-! ### The key step -/

/-- The poll is the next of the host's results; with none left it is no key (R190; log 9). -/
theorem State.polledKey_eq (s : State) : s.polledKey = s.keys.head?.join := by
  unfold State.polledKey
  split <;> simp_all

theorem State.keyStep_none (s : State) : s.keyStep none = s := rfl

theorem State.keyStep_escape (s : State) : s.keyStep (some s.cfg.escapeKey) = s.cycleOwner := if_pos rfl

theorem State.keyStep_of_ne_escape {s : State} {k : Word} (other : k ≠ s.cfg.escapeKey) :
    s.keyStep (some k) = s.onOwner fun v => v.deliverKey k := if_neg other

/-- The owner after the key step: the next VM's index after Escape, else the owner there was (R184, R185). -/
theorem State.keyStep_owner (s : State) (k : Option Word) :
    (s.keyStep k).owner = if k = some s.cfg.escapeKey then s.cycleOwner.owner else s.owner := by
  cases k with
  | none => rfl
  | some k =>
    by_cases escape : k = s.cfg.escapeKey
    · subst escape
      rw [s.keyStep_escape, if_pos rfl]
    · rw [State.keyStep_of_ne_escape escape, State.onOwner_owner, if_neg (by simpa using escape)]

/-! ### The whole start -/

theorem State.owner_beginRound (s : State) (loop : Bool) : (s.beginRound loop).owner = (s.keyStep s.polledKey).owner := by
  have cleared : (s.beginRound loop).owner = (s.afterPoll.keyStep s.polledKey).owner := by
    unfold State.beginRound
    simp only []
    split <;> exact State.onOwner_owner _ _
  rw [cleared, State.keyStep_owner, State.keyStep_owner]
  rfl

theorem State.vmAt_beginRound (s : State) (loop : Bool) (j : Nat) :
    (s.beginRound loop).vmAt j = ((s.afterPoll.keyStep s.polledKey).onOwner Vm.clearOutput).vmAt j :=
  State.vmAt_congr (s.vms_beginRound loop) j

/-- A round whose key step leaves owner `o` and changes no VM but that of `o`, by `f`, then clears the output bit of VM
`o`. -/
theorem step_round {s : State} {loop : Bool} {o : Nat} {f : Vm → Vm} (runs : s.RoundRuns loop) (inhabited : s.vms ≠ [])
    (owner : ((s.atRound loop).afterPoll.keyStep s.polledKey).owner = some o)
    (vms : ∀ (j : Nat) (v : Vm), s.vmAt j = some v →
      ((s.atRound loop).afterPoll.keyStep s.polledKey).vmAt j = some (if j = o then f v else v)) :
    ∃ t, step s = .next t ∧ s.RoundStarted t loop ∧ t.owner = some o ∧
      ∀ (j : Nat) (v : Vm), s.vmAt j = some v → t.vmAt j = some (if j = o then (f v).clearOutput else v) := by
  obtain ⟨next, started⟩ := step_of_roundRuns runs inhabited
  refine ⟨_, next, started, ?_, fun j v hv => ?_⟩
  · rw [State.owner_beginRound, State.keyStep_owner]
    exact ((s.atRound loop).afterPoll.keyStep_owner s.polledKey).symm.trans owner
  · refine (State.vmAt_beginRound (s.atRound loop) loop j).trans ((State.vmAt_onOwner owner (vms j v hv) _).trans ?_)
    split <;> rfl

theorem State.vms_ne_nil_of_lt {s : State} {i : Nat} (h : i < s.vms.length) : s.vms ≠ [] :=
  List.ne_nil_of_length_pos (Nat.zero_lt_of_lt h)

/-- Settles O53: the key step is `cycleOwner`, which changes no VM, and so is the host's CycleOwner. -/
theorem escapeCyclesTheOwner : Obligations.EscapeCyclesTheOwner := by
  refine ⟨fun s loop o runs owner range keys => ?_, fun s o owner => ?_, fun s owner => ?_⟩
  · have polled : s.polledKey = some s.cfg.escapeKey := by rw [s.polledKey_eq, keys]; rfl
    have cycled : (s.atRound loop).afterPoll.keyStep s.polledKey = (s.atRound loop).afterPoll.cycleOwner := by
      rw [polled]
      exact State.keyStep_escape _
    refine step_round (f := id) runs (State.vms_ne_nil_of_lt range) ?_ fun j v hv => ?_
    · rw [cycled]
      exact congrArg (Option.map _) owner
    · rw [cycled, id, ite_self]
      exact hv
  · simp [hostCall, State.cycleOwner, owner]
  · rw [hostCall, State.cycleOwner_of_none owner]

/-- Settles O54: the key step delivers the key to the owner's VM. -/
theorem keyIsDeliveredToTheOwner : Obligations.KeyIsDeliveredToTheOwner := by
  intro s loop o k runs owner range keys other
  have polled : s.polledKey = some k := by rw [s.polledKey_eq, keys]; rfl
  have delivered : (s.atRound loop).afterPoll.keyStep s.polledKey =
      (s.atRound loop).afterPoll.onOwner fun v => v.deliverKey k := by
    rw [polled]
    exact State.keyStep_of_ne_escape other
  refine step_round (f := fun v => v.deliverKey k) runs (State.vms_ne_nil_of_lt range) ?_ fun j v hv => ?_
  · rw [delivered, State.onOwner_owner]
    exact owner
  · rw [delivered]
    exact State.vmAt_onOwner (s := (s.atRound loop).afterPoll) owner hv _

/-- Settles O55: the key step changes nothing. -/
theorem roundClearsOwnersOutputBit : Obligations.RoundClearsOwnersOutputBit := by
  intro s loop o runs owner range keys
  have polled : s.polledKey = none := by
    rw [s.polledKey_eq]
    rcases keys with noKey | noneLeft
    · rw [noKey]; rfl
    · rw [noneLeft]; rfl
  refine step_round (f := id) runs (State.vms_ne_nil_of_lt range) ?_ fun j v hv => ?_
  · rw [polled]
    exact owner
  · rw [polled, id, ite_self]
    exact hv

end Sys2Proof.Machine

/-! PROOFS. The return of a Tick in a round, and the scheduler's loop (60_exceptions.md R182, R183, R187, R188). -/

namespace Sys2Proof.Machine

/-! ### Counting a VM as stopped (R187) -/

/-- Counting changes the entry at `cur` alone. -/
theorem State.account_eq {s : State} {slot : Slot} (here : s.vms[s.cur]? = some slot) (alive : Bool) :
    s.account alive =
      if !alive && !slot.counted then { s.markCounted s.cur with running := s.running - 1 } else s := by
  simp only [State.account, here]

theorem State.running_account {s : State} {slot : Slot} (here : s.vms[s.cur]? = some slot) (alive : Bool) :
    (s.account alive).running = if !alive && !slot.counted then s.running - 1 else s.running := by
  rw [State.account_eq here]
  split <;> rfl

/-- The entry of the VM whose Tick returned: marked from the first time it is not alive. -/
theorem State.slot_account {s : State} {slot : Slot} (here : s.vms[s.cur]? = some slot) (alive : Bool) :
    (s.account alive).vms[s.cur]? = some { slot with counted := slot.counted || !alive } := by
  rw [State.account_eq here]
  split
  · simp_all [State.markCounted]
  · have same : (slot.counted || !alive) = slot.counted := by cases alive <;> simp_all
    rw [same]
    exact here

theorem State.vms_length_account (s : State) (alive : Bool) : (s.account alive).vms.length = s.vms.length := by
  unfold State.account
  (repeat' split) <;> simp [State.markCounted]

theorem State.slot_account_other (s : State) (alive : Bool) {j : Nat} (hj : j ≠ s.cur) :
    (s.account alive).vms[j]? = s.vms[j]? := by
  unfold State.account
  (repeat' split) <;> simp [State.markCounted, hj.symm]

/-! ### The next VM of the round (R183) -/

theorem State.nextInRound_of_more {s : State} (more : s.cur + 1 < s.vms.length) (loop : Bool) :
    (s.nextInRound loop).activity = .tick .service (.round loop) ∧ (s.nextInRound loop).cur = s.cur + 1 := by
  simp [State.nextInRound, more]

theorem State.nextInRound_of_last {s : State} (last : s.vms.length ≤ s.cur + 1) (loop : Bool) :
    (s.nextInRound loop).activity = (if loop then .schedule else .idle) ∧ (s.nextInRound loop).cur = 0 := by
  simp [State.nextInRound, Nat.not_lt.mpr last]

/-! ### Starting rounds (R182) -/

theorem startRounds_of_joined {s : State} (joined : ∀ slot ∈ s.vms, slot.joined = true) (f : State → State) :
    startRounds f s = .next (f { s with started := true }) :=
  if_pos (List.all_eq_true.mpr joined)

theorem startRounds_of_bare {s : State} (bare : ∃ slot ∈ s.vms, slot.joined = false) (f : State → State) :
    startRounds f s = .refused .schedulerHoldsBareVm := by
  refine if_neg fun all => ?_
  obtain ⟨slot, mem, notJoined⟩ := bare
  cases notJoined.symm.trans (List.all_eq_true.mp all slot mem)

/-- Settles O56: a return to a round is the account and then the next VM; the host's call starts rounds; the loop tests the
count. -/
theorem runningCountAndTermination : Obligations.RunningCountAndTermination := by
  refine ⟨?_, fun s joined => startRounds_of_joined joined fun t => { t with activity := .schedule },
    fun s bare => ⟨startRounds_of_bare bare fun t => { t with activity := .schedule },
      startRounds_of_bare bare fun t => t.beginRound false⟩, fun s schedule noneRuns => ?_⟩
  · rintro s _ slot loop alive here rfl
    have vms : (s.tickReturn (.round loop) alive).vms = (s.account alive).vms := State.nextInRound_vms _ loop
    have length := s.vms_length_account alive
    have more := State.nextInRound_of_more (s := s.account alive) (loop := loop)
    have last := State.nextInRound_of_last (s := s.account alive) (loop := loop)
    rw [length, State.account_cur] at more last
    rw [vms]
    exact ⟨(State.nextInRound_running ..).trans (State.running_account here alive), State.slot_account here alive, length,
      fun j => s.slot_account_other alive, s.tickReturn_owner _ _, s.tickReturn_keys _ _, s.tickReturn_output _ _,
      s.tickReturn_round_replies _ _, s.tickReturn_script _ _, s.tickReturn_cfg _ _, s.tickReturn_started _ _,
      s.tickReturn_draws _ _, more, last⟩
  · simp [step, schedule, scheduleStep, noneRuns]

end Sys2Proof.Machine

/-! PROOFS. A VM that waits (60_exceptions.md R185, R186, R189): what a step does to a Trapped VM that is blocked, and the
only moves that clear a blocked bit. -/

namespace Sys2Proof.Machine

namespace State.Move

variable {s : State} {j : Nat} {v v' : Vm}

/-- Only the start of a round with VM `j` as the owner after its key step clears an output bit (R186). -/
theorem keeps_blockedOutput (m : s.Move j v v') (blocked : v.blockedOutput = true) :
    v'.blockedOutput = true ∨ (s.RoundBegins ∧ (s.keyStep s.polledKey).owner = some j) := by
  cases m with
  | same | reset | setKey => exact .inl blocked
  | instr =>
    obtain ⟨-, output, -⟩ := v.afterFetch.effect_sameBlocked s.cfg v.nextInstr
    exact .inl (output.trans (v.afterFetch_blockedOutput.trans blocked))
  | service n r served =>
    obtain ⟨-, output, -⟩ := Vm.trapService_sameBlocked served
    exact .inl (output.trans blocked)
  | block => exact .inl (by simp [v.block_eq, blocked])
  | load img _ _ _ loaded => exact .inl (Vm.load_eq loaded ▸ blocked)
  | key k round owner polled other => exact .inr ⟨round, by simpa [State.keyStep_owner, polled, other] using owner⟩
  | clear round owner => exact .inr ⟨round, owner⟩

/-- Only the delivery of a key to VM `j` as the owner clears an input bit (R185). -/
theorem keeps_blockedInput (m : s.Move j v v') (blocked : v.blockedInput = true) :
    v'.blockedInput = true ∨
      (s.RoundBegins ∧ s.owner = some j ∧ ∃ k : Word, s.keys.head? = some (some k) ∧ k ≠ s.cfg.escapeKey) := by
  cases m with
  | same | reset | setKey | clear => exact .inl blocked
  | instr =>
    obtain ⟨input, -, -⟩ := v.afterFetch.effect_sameBlocked s.cfg v.nextInstr
    exact .inl (input.trans (v.afterFetch_blockedInput.trans blocked))
  | service n r served =>
    obtain ⟨input, -, -⟩ := Vm.trapService_sameBlocked served
    exact .inl (input.trans blocked)
  | block => exact .inl (by simp [v.block_eq, blocked])
  | load img _ _ _ loaded => exact .inl (Vm.load_eq loaded ▸ blocked)
  | key k round owner polled other => exact .inr ⟨round, owner, k, State.keys_of_polledKey polled, other⟩

/-- A Trapped VM that is blocked runs no instruction and gets no service from a Tick; so but for the host's own Reset, Trap
and boot loop it stays Trapped as it is (R177). -/
theorem waits (m : s.Move j v v') {n : BitVec 8} (trapped : v.run = .trapped n) (blocked : v.unblocked = false)
    (noReset : ¬ s.HostCalls (.reset j)) (noTrap : ∀ w : Word, ¬ s.HostCalls (.trap j w))
    (noDrive : ¬ (s.activity = .drive ∧ s.cur = j)) :
    v'.run = .trapped n ∧ v.SameRegs v' ∧ v'.flags = v.flags ∧ v'.pc = v.pc := by
  cases m with
  | same | setKey | key | clear => exact ⟨trapped, fun _ => rfl, rfl, rfl⟩
  | instr _ _ running => cases trapped.symm.trans running
  | service _ _ _ who =>
    rcases who with ⟨here, -, drive | ⟨-, -, unblocked⟩⟩ | ⟨idle, w, call, -⟩
    · exact absurd ⟨drive, here⟩ noDrive
    · cases blocked.symm.trans unblocked
    · exact absurd ⟨idle, call⟩ (noTrap w)
  | block => exact ⟨v.block_run.trans trapped, v.reg_block, v.block_flags, v.block_pc⟩
  | reset idle call => exact absurd ⟨idle, call⟩ noReset
  | load img _ _ _ loaded =>
    cases Vm.load_eq loaded
    exact ⟨trapped, fun _ => rfl, rfl, rfl⟩

end State.Move

/-- A step of the host is its next call. -/
theorem step_of_hostCalls {s : State} {c : HostCall} (calls : s.HostCalls c) : step s = hostCall c s.called := by
  obtain ⟨idle, first⟩ := calls
  obtain ⟨rest, script⟩ := List.head?_eq_some_iff.mp first
  simp [step, idle, hostStep, script, State.called]

/-- A step that begins a round is one that runs: a Round over a bare VM answers no next state (log 16). -/
theorem State.RoundBegins.runs {s t : State} (begins : s.RoundBegins) (h : step s = .next t) :
    ∃ loop, s.RoundRuns loop := by
  rcases begins with ⟨schedule, someRuns⟩ | calls
  · exact ⟨true, .inl ⟨rfl, schedule, someRuns⟩⟩
  · rw [step_of_hostCalls calls] at h
    cases hostCall_answers h with
    | round joined => exact ⟨false, .inr ⟨rfl, calls, joined⟩⟩

/-- The owner after a step that begins a round is the owner after its key step (R183). -/
theorem owner_of_roundBegins {s t : State} (begins : s.RoundBegins) (inhabited : s.vms ≠ []) (h : step s = .next t) :
    t.owner = (s.keyStep s.polledKey).owner := by
  obtain ⟨loop, runs⟩ := begins.runs h
  obtain ⟨next, -⟩ := step_of_roundRuns runs inhabited
  cases next.symm.trans h
  rw [State.owner_beginRound, State.keyStep_owner, State.keyStep_owner]
  rfl

/-- Settles O57: a blocked VM waits, and each premise excludes the one move that clears its bit. -/
theorem nonOwnerStaysBlockedOnOutput : Obligations.NonOwnerStaysBlockedOnOutput := by
  intro s t j v n h hv trapped noReset noTrap noDrive
  obtain ⟨v', hv', move⟩ := step_move h hv
  have waits (bit : v.blockedInput = true ∨ v.blockedOutput = true) :=
    move.waits trapped (Vm.unblocked_of_blocked bit) noReset noTrap noDrive
  refine ⟨fun output notOwner => ?_, fun input notDelivered => ?_⟩
  · obtain ⟨run, kept⟩ := waits (.inr output)
    have still : v'.blockedOutput = true := (move.keeps_blockedOutput output).resolve_right fun ⟨begins, owner⟩ =>
      notOwner ((owner_of_roundBegins begins (State.vms_ne_nil_of_lt (State.lt_of_vmAt hv)) h).trans owner)
    exact ⟨v', hv', run, still, kept⟩
  · obtain ⟨run, kept⟩ := waits (.inl input)
    exact ⟨v', hv', run, (move.keeps_blockedInput input).resolve_right notDelivered, kept⟩

end Sys2Proof.Machine

/-! PROOFS. Reset (70_reset_and_hazards.md R210 to R213): what the host's Reset sets and keeps, and the invariant of the
block in the state after reset. -/

namespace Sys2Proof.Machine

/-- Reset keeps only what it does not set, so a second one changes nothing (R212, R213). -/
@[simp] theorem Vm.reset_reset (v : Vm) : v.reset.reset = v.reset := rfl

/-- The host's Reset on a VM there is resets that VM (R211). -/
theorem hostCall_reset {s : State} {i : Nat} {v : Vm} (hv : s.vmAt i = some v) :
    hostCall (.reset i) s = .next (s.onVmAt i Vm.reset) := by
  simp [hostCall, onVmCall, hv]

/-- The VM after the host's Reset. -/
theorem State.vmAt_onVmAt_reset {s : State} {i : Nat} {v : Vm} (hv : s.vmAt i = some v) :
    (s.onVmAt i Vm.reset).vmAt i = some v.reset := by
  simp [State.vmAt_onVmAt, hv]

/-- Settles O48: Reset changes the one VM, by `Vm.reset`, which is idempotent. -/
theorem resetSetsAndKeeps : Obligations.ResetSetsAndKeeps := by
  intro s i v hv
  have once : (s.onVmAt i Vm.reset).vmAt i = some v.reset := State.vmAt_onVmAt_reset hv
  have twice : ((s.onVmAt i Vm.reset).onVmAt i Vm.reset).vmAt i = some v.reset := by
    rw [State.vmAt_onVmAt_reset once, Vm.reset_reset]
  exact ⟨_, v.reset, hostCall_reset hv, s.sameBut_onVmAt i Vm.reset, once, v.reset_pc, v.reg_reset, v.reset_flags,
    v.reset_run, v.reset_mem, v.reset_pending, v.reset_blockedInput, v.reset_blockedOutput, _, hostCall_reset once, twice⟩

/-- The VM of the state after reset meets what holds of every VM: it is a constructed VM after Reset (R210, R211). -/
theorem State.resetVm_good : State.resetVm.Good := by
  have emptyMemory : (Vm.construct Config.default 0).mem.wf = true := rfl
  exact Vm.reset_good emptyMemory

/-- Settles O58: the one VM is constructed and Reset, still counts, owns the console and is the one that the boot loop
works on. -/
theorem invariantHoldsAtReset : Obligations.InvariantHoldsAtReset where
  initMem := rfl
  vms := List.forall_mem_singleton.mpr State.resetVm_good
  runningCount := rfl
  noOwner := nofun
  ownerInRange o owner := by
    cases owner
    exact Nat.zero_lt_one
  curInRange _ := Nat.zero_lt_one
  roundsJoined := nofun

end Sys2Proof.Machine
